-- ==== Sys2Proof/Word.lean ====
section
/-! DEFINITION. The word types of the block (rules R8, R10, R12 of 00_scope.md): every value is unsigned. -/

namespace Sys2Proof

/-- A byte of `MEM`, of a general register, of a timer or of a constant `kk` (R8). -/
abbrev Byte := BitVec 8

/-- A 16-bit opcode, program counter, stack entry or keypad vector (R8, R10, R34). -/
abbrev Word := BitVec 16

/-- A 12-bit address: the index register `I` and the operand `nnn` (R10, R14). -/
abbrev Addr := BitVec 12

/-- "a 4-bit value (0x0–0xF), used for register indices and keypad codes" (R16). -/
abbrev Nibble := BitVec 4

/-- The 64 x 32 one-bit cells of the display: 32 rows of 64 columns, bit `x` of row `y` the cell at column `x` (R29). -/
abbrev Cells := Vector (BitVec 64) 32

/-- The number of a general register `V0` to `VF` (R21). -/
abbrev Reg := BitVec 4

/-- The flag register `VF` is general register 15 (R22). -/
abbrev regF : Reg := 15#4

end Sys2Proof
end

