-- ==== Sys2Proof/Syntax.lean ====
section
/-! DEFINITION. The instructions: one constructor for each row of the opcode map (R83 of 30_encoding.md, spec/opcode_table.json),
in the map's order. Every field of the encoding is a field of the constructor, the ignored ones too, so that no bit of an
opcode is lost. -/

namespace Sys2Proof

/-- The classic CHIP-8 instructions (R83). `x` and `y` number general registers, `kk` is a byte, `nnn` a 12-bit address and
`n` a count of sprite rows (R14, R82). -/
inductive Instr where
  /-- `00E0` CLS (R190). -/
  | cls
  /-- `00EE` RET (R122). -/
  | ret
  /-- `0nnn` SYS nnn, every `0nnn` word but `00E0` and `00EE`; `nnn` is ignored (R121). -/
  | sys (nnn : Addr)
  /-- `1nnn` JP nnn (R123). -/
  | jp (nnn : Addr)
  /-- `2nnn` CALL nnn (R124). -/
  | call (nnn : Addr)
  /-- `3xkk` SE Vx, kk (R125). -/
  | seByte (x : Reg) (kk : Byte)
  /-- `4xkk` SNE Vx, kk (R126). -/
  | sneByte (x : Reg) (kk : Byte)
  /-- `5xy0` SE Vx, Vy (R127). -/
  | seReg (x y : Reg)
  /-- `6xkk` LD Vx, kk (R142). -/
  | ldByte (x : Reg) (kk : Byte)
  /-- `7xkk` ADD Vx, kk (R143). -/
  | addByte (x : Reg) (kk : Byte)
  /-- `8xy0` LD Vx, Vy (R144). -/
  | ldReg (x y : Reg)
  /-- `8xy1` OR Vx, Vy (R145). -/
  | orReg (x y : Reg)
  /-- `8xy2` AND Vx, Vy (R146). -/
  | andReg (x y : Reg)
  /-- `8xy3` XOR Vx, Vy (R147). -/
  | xorReg (x y : Reg)
  /-- `8xy4` ADD Vx, Vy (R148). -/
  | addReg (x y : Reg)
  /-- `8xy5` SUB Vx, Vy (R149). -/
  | subReg (x y : Reg)
  /-- `8xy6` SHR Vx; `y` is ignored (R150). -/
  | shr (x y : Reg)
  /-- `8xy7` SUBN Vx, Vy (R151). -/
  | subnReg (x y : Reg)
  /-- `8xyE` SHL Vx; `y` is ignored (R152). -/
  | shl (x y : Reg)
  /-- `9xy0` SNE Vx, Vy (R128). -/
  | sneReg (x y : Reg)
  /-- `Annn` LD I, nnn (R170). -/
  | ldI (nnn : Addr)
  /-- `Bnnn` JP V0, nnn (R129). -/
  | jpV0 (nnn : Addr)
  /-- `Cxkk` RND Vx, kk (R153). -/
  | rnd (x : Reg) (kk : Byte)
  /-- `Dxyn` DRW Vx, Vy, n (R191). -/
  | drw (x y : Reg) (n : Nibble)
  /-- `Ex9E` SKP Vx (R203). -/
  | skp (x : Reg)
  /-- `ExA1` SKNP Vx (R204). -/
  | sknp (x : Reg)
  /-- `Fx07` LD Vx, DT (R200). -/
  | ldVxDt (x : Reg)
  /-- `Fx0A` LD Vx, K (R205). -/
  | ldVxK (x : Reg)
  /-- `Fx15` LD DT, Vx (R201). -/
  | ldDtVx (x : Reg)
  /-- `Fx18` LD ST, Vx (R202). -/
  | ldStVx (x : Reg)
  /-- `Fx1E` ADD I, Vx (R171). -/
  | addI (x : Reg)
  /-- `Fx29` LD F, Vx (R172). -/
  | ldF (x : Reg)
  /-- `Fx33` LD B, Vx (R173). -/
  | ldB (x : Reg)
  /-- `Fx55` LD [I], Vx (R174). -/
  | ldMemVx (x : Reg)
  /-- `Fx65` LD Vx, [I] (R175). -/
  | ldVxMem (x : Reg)
  deriving DecidableEq, Repr

end Sys2Proof
end

