-- ==== Sys2Proof/Decode.lean ====
section
/-! DEFINITION. Decoding an opcode (30_encoding.md R80 to R87): the switch of R84, total on every word and every list of bytes,
rejecting by name; then the encoder, and the opcode map of R83 as a list of rows. -/

namespace Sys2Proof

/-! ## The fields of an opcode (R14) -/

/-- `hi = w[15:12]`, the major opcode (R14, R81). -/
def fieldHi (w : Word) : Nibble := w.extractLsb' 12 4

/-- `x = w[11:8]` (R14). -/
def fieldX (w : Word) : Reg := w.extractLsb' 8 4

/-- `y = w[7:4]` (R14). -/
def fieldY (w : Word) : Reg := w.extractLsb' 4 4

/-- `n = w[3:0]` (R14). -/
def fieldN (w : Word) : Nibble := w.extractLsb' 0 4

/-- `kk = w[7:0]` (R14). -/
def fieldKk (w : Word) : Byte := w.extractLsb' 0 8

/-- `nnn = w[11:0]` (R14). -/
def fieldNnn (w : Word) : Addr := w.extractLsb' 0 12

/-! ## The decoder (R84) -/

/-- Why a decoder finds no instruction: one name for each kind of unassigned word (R85), and one for a list of fewer than
two bytes, which no fetch gives (R80). -/
inductive Reject where
  /-- `5xyN` or `9xyN` with `N != 0` (R85). -/
  | compareNibble
  /-- `8xyN` with `N` in {8, 9, A, B, C, D, F} (R85). -/
  | aluFunction
  /-- `ExKK` with `KK` not in {0x9E, 0xA1} (R85). -/
  | keyFunction
  /-- `FxKK` with `KK` not one of the nine assigned values (R85). -/
  | miscFunction
  /-- Fewer than the two bytes of an opcode (R80). -/
  | truncated
  deriving DecidableEq, Repr

/-- The words of `hi = 0` (R84). -/
def decodeSys (w : Word) : Instr :=
  if w = 0x00E0#16 then .cls else if w = 0x00EE#16 then .ret else .sys (fieldNnn w)

/-- The words of `hi = 5` and `hi = 9`: an instruction only when `n = 0` (R84, 92 D15). -/
def decodeCompare (n : Nibble) (i : Instr) : Except Reject Instr :=
  if n = 0#4 then .ok i else .error .compareNibble

/-- The words of `hi = 8`: switch on `n` (R84). -/
def decodeAlu (x y : Reg) (n : Nibble) : Except Reject Instr :=
  match n.toNat with
  | 0x0 => .ok (.ldReg x y)
  | 0x1 => .ok (.orReg x y)
  | 0x2 => .ok (.andReg x y)
  | 0x3 => .ok (.xorReg x y)
  | 0x4 => .ok (.addReg x y)
  | 0x5 => .ok (.subReg x y)
  | 0x6 => .ok (.shr x y)
  | 0x7 => .ok (.subnReg x y)
  | 0xE => .ok (.shl x y)
  | _ => .error .aluFunction

/-- The words of `hi = E`: switch on `kk` (R84). -/
def decodeKey (x : Reg) (kk : Byte) : Except Reject Instr :=
  match kk.toNat with
  | 0x9E => .ok (.skp x)
  | 0xA1 => .ok (.sknp x)
  | _ => .error .keyFunction

/-- The words of `hi = F`: switch on `kk` (R84). -/
def decodeMisc (x : Reg) (kk : Byte) : Except Reject Instr :=
  match kk.toNat with
  | 0x07 => .ok (.ldVxDt x)
  | 0x0A => .ok (.ldVxK x)
  | 0x15 => .ok (.ldDtVx x)
  | 0x18 => .ok (.ldStVx x)
  | 0x1E => .ok (.addI x)
  | 0x29 => .ok (.ldF x)
  | 0x33 => .ok (.ldB x)
  | 0x55 => .ok (.ldMemVx x)
  | 0x65 => .ok (.ldVxMem x)
  | _ => .error .miscFunction

/-- The instruction of an opcode: the switch on `hi` of R84. It depends on the 16 opcode bits alone (R87). The last case is
`hi = F`. -/
def decodeWord (w : Word) : Except Reject Instr :=
  match (fieldHi w).toNat with
  | 0x0 => .ok (decodeSys w)
  | 0x1 => .ok (.jp (fieldNnn w))
  | 0x2 => .ok (.call (fieldNnn w))
  | 0x3 => .ok (.seByte (fieldX w) (fieldKk w))
  | 0x4 => .ok (.sneByte (fieldX w) (fieldKk w))
  | 0x5 => decodeCompare (fieldN w) (.seReg (fieldX w) (fieldY w))
  | 0x6 => .ok (.ldByte (fieldX w) (fieldKk w))
  | 0x7 => .ok (.addByte (fieldX w) (fieldKk w))
  | 0x8 => decodeAlu (fieldX w) (fieldY w) (fieldN w)
  | 0x9 => decodeCompare (fieldN w) (.sneReg (fieldX w) (fieldY w))
  | 0xA => .ok (.ldI (fieldNnn w))
  | 0xB => .ok (.jpV0 (fieldNnn w))
  | 0xC => .ok (.rnd (fieldX w) (fieldKk w))
  | 0xD => .ok (.drw (fieldX w) (fieldY w) (fieldN w))
  | 0xE => decodeKey (fieldX w) (fieldKk w)
  | _ => decodeMisc (fieldX w) (fieldKk w)

/-- The opcode of two consecutive bytes: the byte at the lower address is bits 15..8 (R61). -/
def opcodeOf (first second : Byte) : Word := first.setWidth 16 <<< 8 ||| second.setWidth 16

/-- The instruction at the head of a list of bytes (R61, R80): every instruction is two bytes long. -/
def decodeBytes : List Byte → Except Reject Instr
  | first :: second :: _ => decodeWord (opcodeOf first second)
  | _ => .error .truncated

/-- The two bytes of an opcode as memory holds them, the high byte at the lower address (R61). -/
def bytesOf (w : Word) : List Byte := [w.extractLsb' 8 8, w.extractLsb' 0 8]

/-- The opcode that the host's `nbits` bits `w` stand for: the bits above `nbits` are 0. -/
def tableOpcode (nbits w : Nat) : Word := BitVec.ofNat 16 (w % 2 ^ nbits)

/-- What the decoder reads from a table row's word (the host's question). -/
def decodeTableWord (nbits w : Nat) : Option Instr :=
  match decodeBytes (bytesOf (tableOpcode nbits w)) with
  | .ok i => some i
  | .error _ => none

/-! ## The encoder -/

/-- Format `FA`: major opcode and `nnn` (R81). -/
def packAddr (hi : Nibble) (nnn : Addr) : Word := hi.setWidth 16 <<< 12 ||| nnn.setWidth 16

/-- Format `FXK`: major opcode, `x`, `kk` (R81). -/
def packByte (hi : Nibble) (x : Reg) (kk : Byte) : Word :=
  hi.setWidth 16 <<< 12 ||| x.setWidth 16 <<< 8 ||| kk.setWidth 16

/-- Formats `FXY` and `FXYN`: major opcode, `x`, `y` and a low nibble (R81). -/
def packNibble (hi : Nibble) (x y : Reg) (n : Nibble) : Word :=
  hi.setWidth 16 <<< 12 ||| x.setWidth 16 <<< 8 ||| y.setWidth 16 <<< 4 ||| n.setWidth 16

/-- The opcode of an instruction, from the match and field columns of the opcode map (R81, R83). -/
def encode : Instr → Word
  | .cls => 0x00E0#16
  | .ret => 0x00EE#16
  | .sys nnn => packAddr 0x0#4 nnn
  | .jp nnn => packAddr 0x1#4 nnn
  | .call nnn => packAddr 0x2#4 nnn
  | .seByte x kk => packByte 0x3#4 x kk
  | .sneByte x kk => packByte 0x4#4 x kk
  | .seReg x y => packNibble 0x5#4 x y 0x0#4
  | .ldByte x kk => packByte 0x6#4 x kk
  | .addByte x kk => packByte 0x7#4 x kk
  | .ldReg x y => packNibble 0x8#4 x y 0x0#4
  | .orReg x y => packNibble 0x8#4 x y 0x1#4
  | .andReg x y => packNibble 0x8#4 x y 0x2#4
  | .xorReg x y => packNibble 0x8#4 x y 0x3#4
  | .addReg x y => packNibble 0x8#4 x y 0x4#4
  | .subReg x y => packNibble 0x8#4 x y 0x5#4
  | .shr x y => packNibble 0x8#4 x y 0x6#4
  | .subnReg x y => packNibble 0x8#4 x y 0x7#4
  | .shl x y => packNibble 0x8#4 x y 0xE#4
  | .sneReg x y => packNibble 0x9#4 x y 0x0#4
  | .ldI nnn => packAddr 0xA#4 nnn
  | .jpV0 nnn => packAddr 0xB#4 nnn
  | .rnd x kk => packByte 0xC#4 x kk
  | .drw x y n => packNibble 0xD#4 x y n
  | .skp x => packByte 0xE#4 x 0x9E#8
  | .sknp x => packByte 0xE#4 x 0xA1#8
  | .ldVxDt x => packByte 0xF#4 x 0x07#8
  | .ldVxK x => packByte 0xF#4 x 0x0A#8
  | .ldDtVx x => packByte 0xF#4 x 0x15#8
  | .ldStVx x => packByte 0xF#4 x 0x18#8
  | .addI x => packByte 0xF#4 x 0x1E#8
  | .ldF x => packByte 0xF#4 x 0x29#8
  | .ldB x => packByte 0xF#4 x 0x33#8
  | .ldMemVx x => packByte 0xF#4 x 0x55#8
  | .ldVxMem x => packByte 0xF#4 x 0x65#8

/-! ## The opcode map as rows (R83) -/

/-- One row of the opcode map: a word belongs to it when `(w AND mask) = pattern`; `build` reads the row's operands. -/
structure OpcodeRow where
  mask : Word
  pattern : Word
  build : Word → Instr

/-- Rows 1 to 10 of R83. -/
def rowsSysToAdd : List OpcodeRow :=
  [⟨0xFFFF#16, 0x00E0#16, fun _ => .cls⟩,
   ⟨0xFFFF#16, 0x00EE#16, fun _ => .ret⟩,
   ⟨0xF000#16, 0x0000#16, fun w => .sys (fieldNnn w)⟩,
   ⟨0xF000#16, 0x1000#16, fun w => .jp (fieldNnn w)⟩,
   ⟨0xF000#16, 0x2000#16, fun w => .call (fieldNnn w)⟩,
   ⟨0xF000#16, 0x3000#16, fun w => .seByte (fieldX w) (fieldKk w)⟩,
   ⟨0xF000#16, 0x4000#16, fun w => .sneByte (fieldX w) (fieldKk w)⟩,
   ⟨0xF00F#16, 0x5000#16, fun w => .seReg (fieldX w) (fieldY w)⟩,
   ⟨0xF000#16, 0x6000#16, fun w => .ldByte (fieldX w) (fieldKk w)⟩,
   ⟨0xF000#16, 0x7000#16, fun w => .addByte (fieldX w) (fieldKk w)⟩]

/-- Rows 11 to 19 of R83. -/
def rowsAlu : List OpcodeRow :=
  [⟨0xF00F#16, 0x8000#16, fun w => .ldReg (fieldX w) (fieldY w)⟩,
   ⟨0xF00F#16, 0x8001#16, fun w => .orReg (fieldX w) (fieldY w)⟩,
   ⟨0xF00F#16, 0x8002#16, fun w => .andReg (fieldX w) (fieldY w)⟩,
   ⟨0xF00F#16, 0x8003#16, fun w => .xorReg (fieldX w) (fieldY w)⟩,
   ⟨0xF00F#16, 0x8004#16, fun w => .addReg (fieldX w) (fieldY w)⟩,
   ⟨0xF00F#16, 0x8005#16, fun w => .subReg (fieldX w) (fieldY w)⟩,
   ⟨0xF00F#16, 0x8006#16, fun w => .shr (fieldX w) (fieldY w)⟩,
   ⟨0xF00F#16, 0x8007#16, fun w => .subnReg (fieldX w) (fieldY w)⟩,
   ⟨0xF00F#16, 0x800E#16, fun w => .shl (fieldX w) (fieldY w)⟩]

/-- Rows 20 to 26 of R83. -/
def rowsIndexToKey : List OpcodeRow :=
  [⟨0xF00F#16, 0x9000#16, fun w => .sneReg (fieldX w) (fieldY w)⟩,
   ⟨0xF000#16, 0xA000#16, fun w => .ldI (fieldNnn w)⟩,
   ⟨0xF000#16, 0xB000#16, fun w => .jpV0 (fieldNnn w)⟩,
   ⟨0xF000#16, 0xC000#16, fun w => .rnd (fieldX w) (fieldKk w)⟩,
   ⟨0xF000#16, 0xD000#16, fun w => .drw (fieldX w) (fieldY w) (fieldN w)⟩,
   ⟨0xF0FF#16, 0xE09E#16, fun w => .skp (fieldX w)⟩,
   ⟨0xF0FF#16, 0xE0A1#16, fun w => .sknp (fieldX w)⟩]

/-- Rows 27 to 35 of R83. -/
def rowsMisc : List OpcodeRow :=
  [⟨0xF0FF#16, 0xF007#16, fun w => .ldVxDt (fieldX w)⟩,
   ⟨0xF0FF#16, 0xF00A#16, fun w => .ldVxK (fieldX w)⟩,
   ⟨0xF0FF#16, 0xF015#16, fun w => .ldDtVx (fieldX w)⟩,
   ⟨0xF0FF#16, 0xF018#16, fun w => .ldStVx (fieldX w)⟩,
   ⟨0xF0FF#16, 0xF01E#16, fun w => .addI (fieldX w)⟩,
   ⟨0xF0FF#16, 0xF029#16, fun w => .ldF (fieldX w)⟩,
   ⟨0xF0FF#16, 0xF033#16, fun w => .ldB (fieldX w)⟩,
   ⟨0xF0FF#16, 0xF055#16, fun w => .ldMemVx (fieldX w)⟩,
   ⟨0xF0FF#16, 0xF065#16, fun w => .ldVxMem (fieldX w)⟩]

/-- The opcode map, in the order a decoder tests its rows (R83). -/
def opcodeMap : List OpcodeRow := rowsSysToAdd ++ rowsAlu ++ rowsIndexToKey ++ rowsMisc

/-- "The first row whose `(w AND mask) = match` selects the instruction" (R83); `none` is an unassigned word. -/
def decodeByMap (w : Word) : Option Instr :=
  (opcodeMap.find? fun row => w &&& row.mask == row.pattern).map fun row => row.build w

end Sys2Proof
end

