-- ==== Sys2Proof/Config.lean ====
section
/-! DEFINITION. The parameters the source leaves open (rule R9) and the free value of `Cxkk` (R153): constants without a body,
so that no proof can rest on a value of theirs. -/

namespace Sys2Proof

/-- ASCII case folding of one character: `A`..`Z` to `a`..`z`, every other character unchanged (R253, 92 D35). -/
def foldChar (c : Char) : Char :=
  if 'A' ≤ c ∧ c ≤ 'Z' then Char.ofNat (c.toNat + 32) else c

/-- Case folding of a key code (R253); the folded code is its list of characters. -/
def foldCode (code : String) : List Char :=
  code.toList.map foldChar

/-- The common 1234/QWER/ASDF/ZXCV layout of R250. It stands here as the default that shows a key map exists; no proof can
tell that `Config.keyMap` is or is not this one. -/
abbrev qwertyKeys : Vector String 16 :=
  #v["X", "1", "2", "3", "Q", "W", "E", "A", "S", "D", "Z", "C", "4", "R", "F", "V"]

/-- "No two of the 16 strings are equal after case folding" (R43). -/
abbrev FoldInjective (key : Vector String 16) : Prop :=
  ∀ j k : Fin 16, foldCode key[j] = foldCode key[k] → j = k

/-- A key map: 16 key-code strings, one for each nibble, injective under case folding (R43, R9 `KEYMAP`). -/
structure KeyMap where
  key : Vector String 16 := qwertyKeys
  injective : FoldInjective key := by decide +kernel
  deriving Inhabited

/-- What releasing the key wait does to `PC` (R207, 92 D16). -/
inductive KeyWaitResume where
  /-- The literal reading: the next cycle executes the `Fx0A` again. -/
  | reexecute
  /-- The release adds 2 to `PC`. -/
  | advance
  deriving DecidableEq, Repr, Inhabited

namespace Config

/-- `FONT_BASE`: the fontset's address, with `FONT_BASE + 80 <= 0x200` by its type (R9, 92 D9). Log entry 7. -/
opaque fontBase : Fin 433

/-- `FONT_DATA`: byte `j` of the 80 fontset bytes, for `j < 80` (R9, R47, 92 D10). Log entry 8. -/
opaque fontData : Nat → Byte

/-- `KEYMAP` (R9, R43, 92 D26). Log entry 9. -/
opaque keyMap : KeyMap

/-- `KEY_LABELS` (R9, R251, 92 D27). Log entry 10. -/
opaque keyLabels : Vector String 16

/-- What stands before and after the code in the guidance string of a code: any string that contains the code has this form
(R9 `GUIDANCE(code)`, 92 D28). Log entry 11. -/
opaque guidanceAround : String → String × String

/-- `BEEP_FREQ` (R9, 92 D23). Log entry 12. -/
opaque beepFreq : Nat

/-- `KEYWAIT_RESUME` (R9, R207, 92 D16). Log entry 13. -/
opaque keyWaitResume : KeyWaitResume

/-- `RND`: the byte that the `k`-th execution of `Cxkk` draws, any byte 0..255 (R9, R153, 92 D36, 93 U4). Log entry 6. -/
opaque randomByte : Nat → Byte

/-- `GUIDANCE(code)`: "any string that contains `code`" (R9, R252). -/
def guidance (code : String) : String :=
  (guidanceAround code).1 ++ code ++ (guidanceAround code).2

end Config

end Sys2Proof
end

