-- ==== Sys2Proof/Machine/State.lean ====
section
/-! DEFINITION. The state of the block as plain data (10_state.md R20 to R46), the host's input events (00_scope.md R6) and the
block's output events (R13, R45, 92 D43), and the state at power-on (70_reset_and_hazards.md R302, R305). -/

namespace Sys2Proof.Machine

/-- `MEM[0..4095]` (R28) as the list of the cells that differ from the reset contents; see `Memory.wf` in Machine/Ops.lean. -/
abbrev Memory := List Host.Cell

/-- The AudioChannelState (R17, R44). Its fields `frequency` and `nextStopTick` are `Channel.frequency` and
`Channel.nextStopTick` in Machine/Beep.lean. -/
inductive Channel where
  | muted
  | inactive
  /-- Beeping at a frequency until the expected stop `nextStopTick`. -/
  | active (freq stop : Nat)
  deriving DecidableEq, Repr

/-- A host operation: an input event on a port of the block (R6), performed as one atomic transition (R65, 92 D1). -/
inductive Event where
  /-- DEC `reset()` (R300). -/
  | reset
  /-- DEC `loadRom(bytes)` (R301). -/
  | loadRom (bytes : List Byte)
  /-- DEC `executeCycles(keypad, n)`: `n` cycle events in sequence (R100). -/
  | executeCycles (keypad : Word) (n : Nat)
  /-- DEC `setKeyState(k, pressed)` (R206). -/
  | setKeyState (k : Nibble) (pressed : Bool)
  /-- TMR `advance(e)`, in seconds (R230). -/
  | advance (elapsed : Rat)
  /-- TMR `forceTick()` (R232). -/
  | forceTick
  /-- TMR `loadTimers(d, s)` (R233). -/
  | loadTimers (d s : Byte)
  /-- TMR `setSoundTimer(v)` (R234). -/
  | setSoundTimer (v : Byte)
  /-- TMR `setDelayTimer(v)` (R235). -/
  | setDelayTimer (v : Byte)
  /-- KBD `handleKeyDown(code)` (R252). -/
  | handleKeyDown (code : String)
  /-- KBD `handleKeyUp(code)` (R254). -/
  | handleKeyUp (code : String)
  /-- KBD `buildProfile()` (R255). -/
  | buildProfile
  /-- BEEP `toggleMute(flag)` (R262). -/
  | toggleMute (flag : Bool)
  /-- An external snapshot publish (R238). -/
  | hostPublish
  deriving DecidableEq, Repr

/-- The profile that `buildProfile` returns (R255): a copy (R75). -/
structure Profile where
  mapping : Vector String 16
  labels : Vector String 16
  highlight : Vector Bool 16
  fallbackGuidance : Option String
  deriving DecidableEq, Repr

/-- What `loadRom` returns to the host: `RomTooLarge` is the one error the block reports (R220, R301). -/
inductive LoadResult where
  | ok
  | romTooLarge
  deriving DecidableEq, Repr

/-- An output event (R6, R13 `emit`, R45, 92 D43). -/
inductive Output where
  /-- DEC stages `V[0..15]`, `I`, `PC`, `SP` as stack depth and `OPC` (R105, R45). -/
  | stagedDec (v : Vector Byte 16) (i : Addr) (pc : Word) (sp : Fin 17) (opc : Word)
  /-- TMR stages both timers (R231, R233). -/
  | stagedTimers (dt st : Byte)
  /-- TMR stages `DT` (R235). -/
  | stagedDelay (dt : Byte)
  /-- TMR stages `ST` (R234). -/
  | stagedSound (st : Byte)
  /-- A tick publishes the snapshot with this cycle number (R231). -/
  | published (cyc : Nat)
  /-- TMR's sound-changed notification, delivered to BEEP (R236). -/
  | soundChanged (value : Byte) (cyc : Nat)
  /-- BEEP asks the audio sink to start (R261). -/
  | startBeep (freq : Nat)
  /-- BEEP asks the audio sink to stop (R261). -/
  | stopBeep
  /-- BEEP stages its channel state (R263). -/
  | channelState (chan : Channel)
  /-- The value `buildProfile()` returns (R255). -/
  | profile (p : Profile)
  /-- The value `loadRom(bytes)` returns (R220, R301). -/
  | loadResult (r : LoadResult)
  deriving DecidableEq, Repr

/-- The faults of the machine: none. "No instruction traps, faults or halts, and there are no cause codes" (R221). -/
inductive Fault
  deriving DecidableEq, Repr

/-- Why the model has no step. -/
inductive Refusal where
  /-- An instruction without a meaning; no arm of `exec` answers it. Safe: the model stops. -/
  | notModelled (mnemonic : String)
  /-- The host event `advance(e)` with `e < 0`: "The model refuses `e < 0`: it has no step" (R230, 93 U14). Safe: the model
  stops. No instruction raises it. -/
  | negativeElapsed
  deriving DecidableEq, Repr

/-- The state of the block (R20), then four fields that are the model's own (log entries 1, 4, 5, 6). -/
structure State where
  /-- DEC `MEM`, 4096 bytes (R28). -/
  mem : Memory
  /-- DEC `V[0..15]`; `VF` is `V[15]` (R21, R22). -/
  v : Vector Byte 16
  /-- DEC `I`, 12 bits (R24). -/
  i : Addr
  /-- DEC `PC`, 16 bits (R25). -/
  pc : Word
  /-- DEC `STACK[0..15]`, 16 bits each (R26). -/
  stack : Vector Word 16
  /-- DEC `SP`, 0..16 (R27). -/
  sp : Fin 17
  /-- DEC `DISP`, 64 x 32 one-bit cells (R29). -/
  disp : Cells
  /-- DEC `WAIT` (R30). -/
  wait : Bool
  /-- DEC `WREG` (R31). -/
  wreg : Reg
  /-- DEC `LOADED` (R32). -/
  loaded : Bool
  /-- DEC `OPC` (R33). -/
  opc : Word
  /-- TMR `DT` (R35). -/
  dt : Byte
  /-- TMR `ST` (R36). -/
  st : Byte
  /-- TMR `ACC`, exact seconds (R37). -/
  acc : Rat
  /-- The cycle counter `CYC` (R40). -/
  cyc : Nat
  /-- KBD `HL[0..15]` (R41). -/
  hl : Vector Bool 16
  /-- KBD `GUIDE` (R42). -/
  guide : Option String
  /-- BEEP `MUTED` (R44). -/
  muted : Bool
  /-- BEEP `ACTIVE` (R44). -/
  active : Bool
  /-- BEEP `CHAN` (R44). -/
  chan : Channel
  /-- BEEP `LASTV` (R44). -/
  lastV : Byte
  /-- BEEP `LASTC` (R44). -/
  lastC : Nat
  /-- The model's own: the host's input events that the block has not performed yet, next first (R6, R223; log entry 1). -/
  inputs : List Event
  /-- The model's own: the block's output sequence, oldest first (R13, 92 D43; log entry 4). -/
  outputs : List Output
  /-- The model's own: the `keypad` argument of the cycle that runs (R34; log entry 5). -/
  keypad : Word
  /-- The model's own: how many bytes `Cxkk` has drawn (R153; log entry 6). -/
  draws : Nat
  deriving DecidableEq, Repr

/-- The state at power-on: "the state the block is in before the host's first event" (R302, R305). Nothing of `MEM` is
listed: every byte is at its reset value (R28). The values of the model's own fields are a DESIGN CHOICE (log entries 1, 4,
5, 6). -/
def State.reset : State where
  mem := []
  v := Vector.replicate 16 0#8
  i := 0#12
  pc := 0x200#16
  stack := Vector.replicate 16 0#16
  sp := 0
  disp := Vector.replicate 32 0#64
  wait := false
  wreg := 0#4
  loaded := false
  opc := 0#16
  dt := 0#8
  st := 0#8
  acc := 0
  cyc := 0
  hl := Vector.replicate 16 false
  guide := none
  muted := false
  active := false
  chan := .inactive
  lastV := 0#8
  lastC := 0
  inputs := []
  outputs := []
  keypad := 0#16
  draws := 0

end Sys2Proof.Machine
end

