-- ==== Sys2Proof/Machine/Ops.lean ====
section
/-! DEFINITION. The operations over memory, registers, the program counter, the return stack and the output sequence that the
meanings share (10_state.md, 20_memory.md). There is no operation that takes an exception: the block has none (R221, R224). -/

namespace Sys2Proof.Machine

/-! ## Memory (R28, R60 to R73) -/

/-- What an address reads as when nothing has been written there: the reset contents, 0 but for the 80 font bytes at
`FONT_BASE`, which lie below 0x200 (R28, R66). -/
def unlisted (a : Nat) : Byte :=
  if a < 0x200 then
    if Config.fontBase.val ≤ a ∧ a < Config.fontBase.val + 80 then Config.fontData (a - Config.fontBase.val) else 0#8
  else 0#8

/-- The byte `MEM[a]` (R13 `MemRead`). -/
def Memory.read : Memory → Nat → Byte
  | [], a => unlisted a
  | (b, u) :: m, a => if a = b then u else Memory.read m a

/-- `MEM[a] <- val`, keeping the canonical form (R13 `MemWrite`). -/
def Memory.write : Memory → Nat → Byte → Memory
  | [], a, val => if val = unlisted a then [] else [(a, val)]
  | (b, u) :: m, a, val =>
    if a < b then (if val = unlisted a then (b, u) :: m else (a, val) :: (b, u) :: m)
    else if a = b then (if val = unlisted a then m else (a, val) :: m)
    else (b, u) :: Memory.write m a val

/-- Every address of the list is above `lo` and below 4096, the addresses rise strictly, and no entry equals what an unlisted
address reads as. -/
def Memory.wfAbove : Nat → Memory → Bool
  | _, [] => true
  | lo, (a, val) :: m => decide (lo ≤ a) && decide (a < 4096) && decide (val ≠ unlisted a) && Memory.wfAbove (a + 1) m

/-- The canonical form of a memory: equal memories are equal lists. -/
def Memory.wf (m : Memory) : Bool := Memory.wfAbove 0 m

/-- Read a byte of `MEM`. -/
def State.readByte (s : State) (a : Nat) : Byte := s.mem.read a

/-- Write a byte of `MEM`; a write past the end of memory is dropped, silently (R64, 92 D12). -/
def State.storeByte (s : State) (a : Nat) (val : Byte) : State :=
  if a < 4096 then { s with mem := s.mem.write a val } else s

/-- Write bytes at ascending addresses from `a` (R301's copy of the ROM). -/
def State.storeBytes (s : State) (a : Nat) : List Byte → State
  | [] => s
  | val :: rest => State.storeBytes (s.storeByte a val) (a + 1) rest

/-! ## Registers (R21, R24) -/

/-- `V[x]` (R13). -/
def State.reg (s : State) (x : Reg) : Byte := s.v[x.toNat]

/-- `V[x] <- val` (R13). No register is hardwired (R21). -/
def State.setReg (s : State) (x : Reg) (val : Byte) : State := { s with v := s.v.set x.toNat val }

/-- `I <- val`, reduced modulo 0x1000: `trunc12` (R12, R24). -/
def State.setI (s : State) (val : Nat) : State := { s with i := BitVec.ofNat 12 val }

/-! ## The program counter (R25, R120) -/

/-- `PC <- target`, neither masked nor aligned (R120). -/
def State.setPc (s : State) (target : Word) : State := { s with pc := target }

/-- A skip is `PC <- PC + 2` (R120). -/
def State.skip (s : State) : State := s.setPc (s.pc + 2#16)

/-- `if cond: PC <- PC + 2`. -/
def State.skipIf (s : State) (cond : Bool) : State := if cond then s.skip else s

/-! ## The return stack (R26, R27) -/

/-- `STACK[SP] <- PC; SP <- SP + 1; PC <- target`, or nothing when `SP = 16` (R124, 92 D13). -/
def State.callTo (s : State) (target : Word) : State :=
  if h : s.sp.val < 16 then
    { s with stack := s.stack.set s.sp.val s.pc, sp := ⟨s.sp.val + 1, by omega⟩, pc := target }
  else s

/-- `SP <- SP - 1; PC <- STACK[SP]`, or nothing when `SP = 0` (R122, 92 D13). The popped entry keeps its value. -/
def State.returnFrom (s : State) : State :=
  if h : 0 < s.sp.val then
    { s with sp := ⟨s.sp.val - 1, by omega⟩, pc := s.stack[s.sp.val - 1] }
  else s

/-! ## The output sequence (R13, R45) -/

/-- `emit E`: append an output event (R13, 92 D43). -/
def State.emit (s : State) (o : Output) : State := { s with outputs := s.outputs ++ [o] }

/-- `stage(V[0..15], I, PC, SP, OPC)` (R105, R300). -/
def State.stageDec (s : State) : State := s.emit (.stagedDec s.v s.i s.pc s.sp s.opc)

/-- `draw()`: the free byte of the step (R13, R153); the counter moves on, so that every draw is free of the others. -/
def State.draw (s : State) : Byte × State := (Config.randomByte s.draws, { s with draws := s.draws + 1 })

end Sys2Proof.Machine
end

