-- ==== Sys2Proof/Machine/Operands.lean ====
section
/-! DEFINITION. The operand forms of the instructions: jump targets, the key and glyph numbers, the digits of a decimal, the
addresses through `I` (R82, R176) and the cells of the display (R29). -/

namespace Sys2Proof.Machine

/-- `zext_16(nnn)`, a jump target (R82, R123). -/
def targetOf (nnn : Addr) : Word := nnn.setWidth 16

/-- `zext_16(nnn) + zext_16(V[0])`, the target of `Bnnn`, not masked (R129, 92 D14). -/
def targetPlus (nnn : Addr) (offset : Byte) : Word := nnn.setWidth 16 + offset.setWidth 16

/-- `v[3:0]`, the key or glyph number in a register (R172, R203; 92 D7, D8). -/
def lowNibble (val : Byte) : Nibble := val.extractLsb' 0 4

/-- `keypad[k] = 1`: key `k` is held (R17, R203). -/
def keyHeld (keypad : Word) (k : Nibble) : Bool := keypad.getLsbD k.toNat

/-- `FONT_BASE + 5 * d`, the address of the glyph of a digit (R172). -/
def glyphAddress (base : Nat) (d : Nibble) : Nat := base + 5 * d.toNat

/-- `[v / 100, (v / 10) mod 10, v mod 10]` (R173). -/
def decimalDigits (val : Byte) : List Byte :=
  [BitVec.ofNat 8 (val.toNat / 100), BitVec.ofNat 8 (val.toNat / 10 % 10), BitVec.ofNat 8 (val.toNat % 10)]

/-- The address through `I` with an implicit offset (R176); it is not reduced, so it may lie past the end of memory. -/
def indexed (i : Addr) (offset : Nat) : Nat := i.toNat + offset

/-- `V[k]` for the loop counter `k` of `Fx55` and `Fx65`, which never exceeds 15 (R174). -/
def loopReg (k : Nat) : Reg := BitVec.ofNat 4 k

/-- The place in the row-major buffer of the cell at column `px mod 64` and row `py mod 32` (R29, R191). -/
def cellIndex (px py : Nat) : Fin 2048 := ⟨py % 32 * 64 + px % 64, by omega⟩

/-- The cell in a place of the row-major buffer (R29). -/
def cellAt (d : Cells) (k : Fin 2048) : Bool := d[k.val / 64].getLsbD (k.val % 64)

/-- The display with the cell in one place flipped (R191). -/
def flipAt (d : Cells) (k : Fin 2048) : Cells :=
  d.set (k.val / 64) (d[k.val / 64] ^^^ BitVec.twoPow 64 (k.val % 64))

/-- `s[7 - col]`: the pixel of a sprite byte in a column, bit 7 leftmost (R191). -/
def spritePixel (b : Byte) (col : Nat) : Bool := b.getLsbD (7 - col)

/-- The display cell `DISP[px, py]` (R13, R29). -/
def State.cell (s : State) (px py : Nat) : Bool := cellAt s.disp (cellIndex px py)

end Sys2Proof.Machine
end

