-- ==== Sys2Proof/Machine/Flags.lean ====
section
/-! DEFINITION. The flag computations of `VF` (10_state.md R22, 42_alu.md R140, R141, R154), and the one operation that writes
a result and then the flag. -/

namespace Sys2Proof.Machine

/-- The flag byte of a condition: 1 or 0 (R148). -/
def flagByte (cond : Bool) : Byte := if cond then 1#8 else 0#8

/-- "VF = 1 iff the 9-bit sum exceeds 0xFF" (R148). -/
def carry (a b : Byte) : Bool := decide (a.toNat + b.toNat > 0xFF)

/-- Not-borrow: 1 iff minuend >= subtrahend (R140, R149, R151). -/
def notBorrow (minuend subtrahend : Byte) : Bool := decide (minuend.toNat ≥ subtrahend.toNat)

/-- The bit that a right shift moves out (R150). -/
def shiftedOutRight (a : Byte) : Bool := a.getLsbD 0

/-- The bit that a left shift moves out (R152). -/
def shiftedOutLeft (a : Byte) : Bool := a.getLsbD 7

/-- Write the result to `V[x]`, and then the flag to `VF`: with `x = 0xF` the flag stays and the result is lost (R141,
92 D6). -/
def State.setResult (s : State) (x : Reg) (result : Byte) (flag : Byte) : State :=
  (s.setReg x result).setReg regF flag

end Sys2Proof.Machine
end

