-- ==== Sys2Proof/Machine/Alu.lean ====
section
/-! DEFINITION. The ALU and register instructions (42_alu.md R140 to R154). Operands are read before anything is written, and
the flag is written last (R141). -/

namespace Sys2Proof.Machine

/-- `6xkk` LD Vx, kk (R142). -/
def execLdByte (x : Reg) (kk : Byte) (s : State) : Host.Outcome State Fault Refusal := .next (s.setReg x kk)

/-- `7xkk` ADD Vx, kk: `VF` is not written as a flag (R143). -/
def execAddByte (x : Reg) (kk : Byte) (s : State) : Host.Outcome State Fault Refusal :=
  .next (s.setReg x (s.reg x + kk))

/-- `8xy0` LD Vx, Vy (R144). -/
def execLdReg (x y : Reg) (s : State) : Host.Outcome State Fault Refusal := .next (s.setReg x (s.reg y))

/-- `8xy1` OR Vx, Vy: `VF` is cleared (R145). -/
def execOrReg (x y : Reg) (s : State) : Host.Outcome State Fault Refusal :=
  .next (s.setResult x (s.reg x ||| s.reg y) 0#8)

/-- `8xy2` AND Vx, Vy: `VF` is cleared (R146). -/
def execAndReg (x y : Reg) (s : State) : Host.Outcome State Fault Refusal :=
  .next (s.setResult x (s.reg x &&& s.reg y) 0#8)

/-- `8xy3` XOR Vx, Vy: `VF` is cleared (R147). -/
def execXorReg (x y : Reg) (s : State) : Host.Outcome State Fault Refusal :=
  .next (s.setResult x (s.reg x ^^^ s.reg y) 0#8)

/-- `8xy4` ADD Vx, Vy: `VF` is the carry (R148). -/
def execAddReg (x y : Reg) (s : State) : Host.Outcome State Fault Refusal :=
  .next (s.setResult x (s.reg x + s.reg y) (flagByte (carry (s.reg x) (s.reg y))))

/-- `8xy5` SUB Vx, Vy: `VF` is the not-borrow bit (R149). -/
def execSubReg (x y : Reg) (s : State) : Host.Outcome State Fault Refusal :=
  .next (s.setResult x (s.reg x - s.reg y) (flagByte (notBorrow (s.reg x) (s.reg y))))

/-- `8xy6` SHR Vx: `VF` is the bit shifted out; `y` is ignored (R150). -/
def execShr (x _y : Reg) (s : State) : Host.Outcome State Fault Refusal :=
  .next (s.setResult x (s.reg x >>> 1) (flagByte (shiftedOutRight (s.reg x))))

/-- `8xy7` SUBN Vx, Vy: `VF` is the not-borrow bit (R151). -/
def execSubnReg (x y : Reg) (s : State) : Host.Outcome State Fault Refusal :=
  .next (s.setResult x (s.reg y - s.reg x) (flagByte (notBorrow (s.reg y) (s.reg x))))

/-- `8xyE` SHL Vx: `VF` is the bit shifted out; `y` is ignored (R152). -/
def execShl (x _y : Reg) (s : State) : Host.Outcome State Fault Refusal :=
  .next (s.setResult x (s.reg x <<< 1) (flagByte (shiftedOutLeft (s.reg x))))

/-- `Cxkk` RND Vx, kk: a free byte, masked with `kk` (R153, 92 D36). -/
def execRnd (x : Reg) (kk : Byte) (s : State) : Host.Outcome State Fault Refusal :=
  .next (s.draw.2.setReg x (s.draw.1 &&& kk))

end Sys2Proof.Machine
end

