-- ==== Sys2Proof/Machine/Control.lean ====
section
/-! DEFINITION. The control-transfer instructions (41_control_flow.md R120 to R129). On entry `PC` is the address of the next
instruction (R102, R103). -/

namespace Sys2Proof.Machine

/-- `0nnn` SYS: no operation; `nnn` is ignored (R121). -/
def execSys (_nnn : Addr) (s : State) : Host.Outcome State Fault Refusal := .next s

/-- `00EE` RET (R122). -/
def execRet (s : State) : Host.Outcome State Fault Refusal := .next s.returnFrom

/-- `1nnn` JP (R123). -/
def execJp (nnn : Addr) (s : State) : Host.Outcome State Fault Refusal := .next (s.setPc (targetOf nnn))

/-- `2nnn` CALL (R124). -/
def execCall (nnn : Addr) (s : State) : Host.Outcome State Fault Refusal := .next (s.callTo (targetOf nnn))

/-- `3xkk` SE Vx, kk (R125). -/
def execSeByte (x : Reg) (kk : Byte) (s : State) : Host.Outcome State Fault Refusal :=
  .next (s.skipIf (s.reg x == kk))

/-- `4xkk` SNE Vx, kk (R126). -/
def execSneByte (x : Reg) (kk : Byte) (s : State) : Host.Outcome State Fault Refusal :=
  .next (s.skipIf (s.reg x != kk))

/-- `5xy0` SE Vx, Vy (R127). -/
def execSeReg (x y : Reg) (s : State) : Host.Outcome State Fault Refusal :=
  .next (s.skipIf (s.reg x == s.reg y))

/-- `9xy0` SNE Vx, Vy (R128). -/
def execSneReg (x y : Reg) (s : State) : Host.Outcome State Fault Refusal :=
  .next (s.skipIf (s.reg x != s.reg y))

/-- `Bnnn` JP V0, nnn: the base register is always `V0` (R129). -/
def execJpV0 (nnn : Addr) (s : State) : Host.Outcome State Fault Refusal :=
  .next (s.setPc (targetPlus nnn (s.reg 0#4)))

end Sys2Proof.Machine
end

