-- ==== Sys2Proof/Machine/Display.lean ====
section
/-! DEFINITION. The display instructions and the buffer that the render sink receives (44_display.md R190 to R192). -/

namespace Sys2Proof.Machine

/-- `00E0` CLS (R190). -/
def execCls (s : State) : Host.Outcome State Fault Refusal :=
  .next { s with disp := Vector.replicate 32 0#64 }

/-- Flip the cell at `px mod 64`, `py mod 32`, and note a collision when it was set (R191). The pair is the display and
whether a set pixel has become unset. -/
def flipCell (px py : Nat) (d : Cells × Bool) : Cells × Bool :=
  (flipAt d.1 (cellIndex px py), d.2 || cellAt d.1 (cellIndex px py))

/-- One row of a sprite: its 8 columns, left to right (R191). -/
def drawRow (cx py : Nat) (b : Byte) (d : Cells × Bool) : Cells × Bool :=
  (List.range 8).foldl (fun d col => if spritePixel b col then flipCell (cx + col) py d else d) d

/-- `count` rows of a sprite from row `row`, stopping at the end of memory (R191, 92 D11). -/
def drawRows (mem : Memory) (base : Addr) (cx cy : Nat) : (row count : Nat) → Cells × Bool → Cells × Bool
  | _, 0, d => d
  | row, count + 1, d =>
    if indexed base row < 4096 then
      drawRows mem base cx cy (row + 1) count (drawRow cx (cy + row) (mem.read (indexed base row)) d)
    else d

/-- `Dxyn` DRW Vx, Vy, n: the coordinates and `I` are captured before `VF` is cleared; then `VF` is the collision flag
(R191, 92 D11). -/
def execDrw (x y : Reg) (n : Nibble) (s : State) : Host.Outcome State Fault Refusal :=
  let drawn := drawRows s.mem s.i (s.reg x).toNat (s.reg y).toNat 0 n.toNat (s.disp, false)
  .next ({ s with disp := drawn.1 }.setReg regF (flagByte drawn.2))

/-- What the render sink receives: "the 2048-element row-major buffer of 0/1 values, plus width/height" (R192, R29). The
host decides when the sink is called; that reads the state and changes nothing. -/
def State.renderBuffer (s : State) : List Byte × Nat × Nat :=
  ((List.finRange 2048).map fun k => flagByte (cellAt s.disp k), 64, 32)

end Sys2Proof.Machine
end

