-- ==== Sys2Proof/Machine/Index.lean ====
section
/-! DEFINITION. The index register and the memory transfers (43_memory_index.md R170 to R176). -/

namespace Sys2Proof.Machine

/-- `Annn` LD I, nnn (R170). -/
def execLdI (nnn : Addr) (s : State) : Host.Outcome State Fault Refusal := .next (s.setI nnn.toNat)

/-- `Fx1E` ADD I, Vx: reduced modulo 0x1000, `VF` not written (R171). -/
def execAddI (x : Reg) (s : State) : Host.Outcome State Fault Refusal :=
  .next (s.setI (s.i.toNat + (s.reg x).toNat))

/-- `Fx29` LD F, Vx: the glyph of the low nibble (R172). -/
def execLdF (x : Reg) (s : State) : Host.Outcome State Fault Refusal :=
  .next (s.setI (glyphAddress Config.fontBase.val (lowNibble (s.reg x))))

/-- `Fx33` LD B, Vx: three digits at `I`; the digits past the end of memory are dropped (R173, 92 D12). -/
def execLdB (x : Reg) (s : State) : Host.Outcome State Fault Refusal :=
  .next (s.storeBytes (indexed s.i 0) (decimalDigits (s.reg x)))

/-- The loop of `Fx55`: `count` registers from `V[k]` at ascending addresses from `base + k`, stopping early at the end of
memory (R174). -/
def storeRegs (base : Addr) : (k count : Nat) → State → State
  | _, 0, s => s
  | k, count + 1, s =>
    if indexed base k < 4096 then
      storeRegs base (k + 1) count (s.storeByte (indexed base k) (s.reg (loopReg k)))
    else s

/-- `Fx55` LD [I], Vx: `I` advances whether or not the loop stopped early (R174). -/
def execLdMemVx (x : Reg) (s : State) : Host.Outcome State Fault Refusal :=
  .next ((storeRegs s.i 0 (x.toNat + 1) s).setI (s.i.toNat + x.toNat + 1))

/-- The loop of `Fx65`: `count` registers from `V[k]`, from ascending addresses from `base + k`, stopping early at the end of
memory (R175). -/
def loadRegs (base : Addr) : (k count : Nat) → State → State
  | _, 0, s => s
  | k, count + 1, s =>
    if indexed base k < 4096 then
      loadRegs base (k + 1) count (s.setReg (loopReg k) (s.readByte (indexed base k)))
    else s

/-- `Fx65` LD Vx, [I]: `I` advances whether or not the loop stopped early (R175). -/
def execLdVxMem (x : Reg) (s : State) : Host.Outcome State Fault Refusal :=
  .next ((loadRegs s.i 0 (x.toNat + 1) s).setI (s.i.toNat + x.toNat + 1))

end Sys2Proof.Machine
end

