-- ==== Sys2Proof/Machine/Beep.lean ====
section
/-! DEFINITION. BEEP, the beep state machine (60_exceptions.md R260 to R265). -/

namespace Sys2Proof.Machine

/-- The `frequency` field of a channel state: "`BEEP_FREQ` in every state" (R44). An `Active` carries the frequency it was
started with, which is `BEEP_FREQ` too (`Inv.chanFreq`); the other two take it from the parameter (log entry 23). -/
def Channel.frequency : Channel → Nat
  | .muted => Config.beepFreq
  | .inactive => Config.beepFreq
  | .active freq _ => freq

/-- The `nextStopTick` field of a channel state, "present only in `Active`" (R44). -/
def Channel.nextStopTick : Channel → Option Nat
  | .muted => none
  | .inactive => none
  | .active _ stop => some stop

/-- `emit StopBeep; ACTIVE <- 0`, if a beep is active (R260, R262). -/
def State.stopIfActive (s : State) : State :=
  if s.active then { s.emit .stopBeep with active := false } else s

/-- `emit StartBeep(BEEP_FREQ); ACTIVE <- 1; CHAN <- Active(BEEP_FREQ, stop)` (R260, R262). -/
def State.startUntil (s : State) (stop : Nat) : State :=
  { s.emit (.startBeep Config.beepFreq) with active := true, chan := .active Config.beepFreq stop }

/-- `emit ChannelState(CHAN)` (R263). -/
def State.publishChannel (s : State) : State := s.emit (.channelState s.chan)

/-- `updateSoundTimer(v, c)`: the transition rules, evaluated in order (R260). -/
def updateSoundTimer (val : Byte) (c : Nat) (s : State) : State :=
  let s1 := { s with lastV := val, lastC := c }
  if s1.muted then { s1.stopIfActive with chan := .muted }.publishChannel
  else if 0 < val.toNat ∧ s1.active = false then (s1.startUntil (c + val.toNat)).publishChannel
  else if val = 0#8 ∧ s1.active = true then { s1.stopIfActive with chan := .inactive }.publishChannel
  else s1

/-- `toggleMute(flag)` (R262): re-evaluate with the last notification, and always republish. -/
def toggleMute (flag : Bool) (s : State) : State :=
  let s1 := { s with muted := flag }
  if flag then { s1.stopIfActive with chan := .muted }.publishChannel
  else if 0 < s1.lastV.toNat ∧ s1.active = false then (s1.startUntil (s1.lastC + s1.lastV.toNat)).publishChannel
  else if s1.active then s1.publishChannel
  else { s1 with chan := .inactive }.publishChannel

end Sys2Proof.Machine
end

