-- ==== Sys2Proof/Machine/Timer.lean ====
section
/-! DEFINITION. TMR, the 60 Hz timer unit (60_exceptions.md R230 to R239). -/

namespace Sys2Proof.Machine

/-- `emit SoundChanged(v, c)`, delivered to BEEP within the same event (R236, 92 D21). -/
def soundChanged (val : Byte) (c : Nat) (s : State) : State :=
  updateSoundTimer val c (s.emit (.soundChanged val c))

/-- `setSoundTimer(v)`: always notifies, and does not publish (R234). -/
def setSoundTimer (val : Byte) (s : State) : State :=
  soundChanged val s.cyc ({ s with st := val }.emit (.stagedSound val))

/-- `setDelayTimer(v)`: never notifies (R235). -/
def setDelayTimer (val : Byte) (s : State) : State :=
  { s with dt := val }.emit (.stagedDelay val)

/-- `loadTimers(d, s)`: sets both timers and notifies unconditionally (R233). -/
def loadTimers (d snd : Byte) (s : State) : State :=
  soundChanged snd s.cyc ({ s with dt := d, st := snd }.emit (.stagedTimers d snd))

/-- "decrement if > 0" (R231). -/
def countDown (t : Byte) : Byte := if 0 < t.toNat then t - 1#8 else t

/-- `publishSnapshot`: increment `CYC`, then broadcast (R231, R40). -/
def publish (s : State) : State :=
  { s with cyc := s.cyc + 1 }.emit (.published (s.cyc + 1))

/-- One tick: decrement, stage the timers, publish, and only then notify with the post-increment `CYC` (R231). -/
def tick (s : State) : State :=
  let s1 := { s with dt := countDown s.dt, st := countDown s.st }
  let s2 := publish (s1.emit (.stagedTimers s1.dt s1.st))
  if 0 < s.st.toNat then soundChanged s2.st s2.cyc s2 else s2

/-- The loop of `advance`: while `ACC >= 1/60`, take 1/60 off and tick. `fuel` bounds the number of rounds. -/
def tickWhileDue : (fuel : Nat) → State → State
  | 0, s => s
  | fuel + 1, s =>
    if 1 / 60 ≤ s.acc then tickWhileDue fuel (tick { s with acc := s.acc - 1 / 60 }) else s

/-- `advance(e)`: add the elapsed time, then tick while a tick is due; `e < 0` has no step (R230, 92 D19). The fuel is
`floor(ACC * 60)`, the number of rounds that the loop takes. -/
def advance (e : Rat) (s : State) : Host.Outcome State Fault Refusal :=
  if e < 0 then .refused .negativeElapsed
  else .next (tickWhileDue ((s.acc + e) * 60).floor.toNat { s with acc := s.acc + e })

/-- `hostPublish()`: a publish of another caller; the only effect is `CYC <- CYC + 1` (R238, 92 D39). -/
def hostPublish (s : State) : State := { s with cyc := s.cyc + 1 }

end Sys2Proof.Machine
end

