-- ==== Sys2Proof/Machine/TimerKey.lean ====
section
/-! DEFINITION. The timer and key instructions, and the release of the key wait (45_timer_key.md R200 to R208). -/

namespace Sys2Proof.Machine

/-- `Ex9E` SKP Vx: tests the `keypad` argument of the running `executeCycles`, not KBD's `HL` (R203). -/
def execSkp (x : Reg) (s : State) : Host.Outcome State Fault Refusal :=
  .next (s.skipIf (keyHeld s.keypad (lowNibble (s.reg x))))

/-- `ExA1` SKNP Vx (R204). -/
def execSknp (x : Reg) (s : State) : Host.Outcome State Fault Refusal :=
  .next (s.skipIf (!keyHeld s.keypad (lowNibble (s.reg x))))

/-- `Fx07` LD Vx, DT (R200). -/
def execLdVxDt (x : Reg) (s : State) : Host.Outcome State Fault Refusal := .next (s.setReg x s.dt)

/-- `Fx0A` LD Vx, K: enter the key wait; `PC` addresses this `Fx0A` again, and `V[x]` is not written (R205). -/
def execLdVxK (x : Reg) (s : State) : Host.Outcome State Fault Refusal :=
  .next ({ s with wait := true, wreg := x }.setPc (s.pc - 2#16))

/-- `Fx15` LD DT, Vx: `setDelayTimer` (R201, R235). -/
def execLdDtVx (x : Reg) (s : State) : Host.Outcome State Fault Refusal := .next (setDelayTimer (s.reg x) s)

/-- `Fx18` LD ST, Vx: `setSoundTimer` (R202, R234). -/
def execLdStVx (x : Reg) (s : State) : Host.Outcome State Fault Refusal := .next (setSoundTimer (s.reg x) s)

/-- `setKeyState(k, pressed)` under a value of `KEYWAIT_RESUME` (R206, R207): a press while waiting writes the nibble to
`V[WREG]` and clears the wait; anything else does nothing (92 D17). -/
def setKeyStateWith (resume : KeyWaitResume) (k : Nibble) (pressed : Bool) (s : State) : State :=
  if s.wait && pressed then
    let s1 := { s.setReg s.wreg (k.setWidth 8) with wait := false }
    match resume with
    | .reexecute => s1
    | .advance => s1.setPc (s1.pc + 2#16)
  else s

/-- `setKeyState(k, pressed)` (R206). -/
def setKeyState (k : Nibble) (pressed : Bool) (s : State) : State :=
  setKeyStateWith Config.keyWaitResume k pressed s

end Sys2Proof.Machine
end

