-- ==== Sys2Proof/Machine/Cycle.lean ====
section
/-! DEFINITION. One cycle of DEC: fetch, execute, stage (40_cycle.md R100 to R108). -/

namespace Sys2Proof.Machine

/-- The fetch address `PC mod 4095`, so `0 <= a <= 4094` (R102). The modulus is `memorySize - 1`, not a mask (R8, 93 U10). -/
def State.fetchAddress (s : State) : Nat := s.pc.toNat % 4095

/-- The opcode at the fetch address: two bytes, big-endian (R61, R102). -/
def State.fetchWord (s : State) : Word :=
  opcodeOf (s.readByte s.fetchAddress) (s.readByte (s.fetchAddress + 1))

/-- `fetch`: sets `OPC`, and `PC` to the reduced address plus 2 (R102, 92 D4). The `keypad` argument of the event is put where
the instructions of this cycle read it (R34, R103). -/
def State.fetched (s : State) (keypad : Word) : State :=
  { s with opc := s.fetchWord, pc := BitVec.ofNat 16 (s.fetchAddress + 2), keypad := keypad }

/-- An unassigned opcode is silently ignored: it changes nothing but what every step does (R85). -/
def execUnassigned (s : State) : Host.Outcome State Fault Refusal := .next s

/-- `execute(OPC, keypad)`: the one rule that R83 selects for the opcode, or R85 for an unassigned one (R103). -/
def execOpcode (s : State) : Host.Outcome State Fault Refusal :=
  match decodeWord s.opc with
  | .ok i => exec i s
  | .error _ => execUnassigned s

/-- `f` of the next state, where there is one. -/
def mapNext (f : State → State) : Host.Outcome State Fault Refusal → Host.Outcome State Fault Refusal
  | .next s => .next (f s)
  | .fault r => .fault r
  | .refused r => .refused r

/-- One cycle, `cycle(keypad)` (R101): nothing without a ROM, nothing in the key wait (R104), else fetch, execute, stage. -/
def cycle (keypad : Word) (s : State) : Host.Outcome State Fault Refusal :=
  if s.loaded = false then .next s
  else if s.wait = true then .next s
  else mapNext State.stageDec (execOpcode (s.fetched keypad))

/-- Put the cycles of an `executeCycles` event that are still to run before the other inputs; with none left the event is
over (R100). -/
def State.requeue (s : State) (keypad : Word) : Nat → State
  | 0 => s
  | n + 1 => { s with inputs := .executeCycles keypad (n + 1) :: s.inputs }

/-- One atomic cycle of `executeCycles(keypad, n)`; with `n = 0` the event does nothing (R100, R107, 92 D2, D41). -/
def executeCycles (keypad : Word) : Nat → State → Host.Outcome State Fault Refusal
  | 0, s => .next s
  | n + 1, s => cycle keypad (s.requeue keypad n)

end Sys2Proof.Machine
end

