-- ==== Sys2Proof/Machine/Keyboard.lean ====
section
/-! DEFINITION. KBD, the key matrix and the one-shot guidance latch (60_exceptions.md R250 to R258). -/

namespace Sys2Proof.Machine

/-- The first nibble `k` from the list with `fold(KEYMAP[k]) = fold(code)`. -/
def lookupAmong (key : Vector String 16) (code : String) : List (Fin 16) → Option (Fin 16)
  | [] => none
  | k :: rest => if foldCode key[k] = foldCode code then some k else lookupAmong key code rest

/-- `lookup(code)` in a key table: the unique nibble that maps to the code, regardless of case, or `none` (R253). -/
def lookupIn (key : Vector String 16) (code : String) : Option (Fin 16) :=
  lookupAmong key code (List.finRange 16)

/-- `lookup(code)` (R253). -/
def lookup (code : String) : Option (Fin 16) := lookupIn Config.keyMap.key code

/-- `handleKeyDown(code)` with a key table: a mapped code sets its highlight bit, an unmapped one latches the guidance, and
replaces one that nobody has read (R252, 92 D28, D38). -/
def keyDownIn (key : Vector String 16) (code : String) (s : State) : State :=
  match lookupIn key code with
  | none => { s with guide := some (Config.guidance code) }
  | some k => { s with hl := s.hl.set k true }

/-- `handleKeyDown(code)` (R252). -/
def handleKeyDown (code : String) (s : State) : State := keyDownIn Config.keyMap.key code s

/-- `handleKeyUp(code)` with a key table: a mapped code clears its highlight bit, an unmapped one does nothing (R254). -/
def keyUpIn (key : Vector String 16) (code : String) (s : State) : State :=
  match lookupIn key code with
  | none => s
  | some k => { s with hl := s.hl.set k false }

/-- `handleKeyUp(code)` (R254). -/
def handleKeyUp (code : String) (s : State) : State := keyUpIn Config.keyMap.key code s

/-- The profile of the state (R255). -/
def State.currentProfile (s : State) : Profile where
  mapping := Config.keyMap.key
  labels := Config.keyLabels
  highlight := s.hl
  fallbackGuidance := s.guide

/-- `buildProfile()`: return the profile and consume the latch (R255). -/
def buildProfile (s : State) : State :=
  { s with guide := none }.emit (.profile s.currentProfile)

end Sys2Proof.Machine
end

