-- ==== Sys2Proof/Machine/Events.lean ====
section
/-! DEFINITION. The host's events: reset and load (70_reset_and_hazards.md R300, R301), and which operation each event performs
(00_scope.md R6). -/

namespace Sys2Proof.Machine

/-- The DEC part of `reset()`: memory at its reset contents, registers, stack and display 0, `PC` at 0x200, no wait and no
program (R300). -/
def State.clearDec (s : State) : State :=
  { s with
    mem := [], v := Vector.replicate 16 0#8, i := 0#12, pc := 0x200#16, stack := Vector.replicate 16 0#16, sp := 0,
    disp := Vector.replicate 32 0#64, wait := false, wreg := 0#4, loaded := false, opc := 0#16 }

/-- `reset()`: clear DEC, stage its values, then `loadTimers(0, 0)`, whose notification BEEP handles (R300, 92 D40). -/
def resetEvent (s : State) : State := loadTimers 0#8 0#8 s.clearDec.stageDec

/-- The largest ROM, `4096 - 0x200` bytes (R8 `ROM_MAX`). -/
def romMax : Nat := 3584

/-- `loadRom(bytes)`: reset first; a ROM that is too large fails and leaves the reset state; else copy it to 0x200 and mark
the machine loaded (R301, 90 C1). -/
def loadRom (bytes : List Byte) (s : State) : State :=
  if romMax < bytes.length then (resetEvent s).emit (.loadResult .romTooLarge)
  else { (resetEvent s).storeBytes 0x200 bytes with loaded := true }.emit (.loadResult .ok)

/-- One input event, as one atomic transition (R6, R7, R65). -/
def perform (e : Event) (s : State) : Host.Outcome State Fault Refusal :=
  match e with
  | .reset => .next (resetEvent s)
  | .loadRom bytes => .next (loadRom bytes s)
  | .executeCycles keypad n => executeCycles keypad n s
  | .setKeyState k pressed => .next (setKeyState k pressed s)
  | .advance elapsed => advance elapsed s
  | .forceTick => .next (tick s)
  | .loadTimers d snd => .next (loadTimers d snd s)
  | .setSoundTimer val => .next (setSoundTimer val s)
  | .setDelayTimer val => .next (setDelayTimer val s)
  | .handleKeyDown code => .next (handleKeyDown code s)
  | .handleKeyUp code => .next (handleKeyUp code s)
  | .buildProfile => .next (buildProfile s)
  | .toggleMute flag => .next (toggleMute flag s)
  | .hostPublish => .next (hostPublish s)

/-- Perform the next input event. With none pending nothing happens: the block has no clock and moves only on the host's
events (R6, R7). -/
def performNext (s : State) : Host.Outcome State Fault Refusal :=
  match s.inputs with
  | [] => .next s
  | e :: rest => perform e { s with inputs := rest }

/-- A table row's word as the next instruction: its two bytes at the fetch address, a program loaded and no key wait, and one
cycle at the head of the inputs (R100, R101, R104; log entry 21). -/
def State.placeWord (s : State) (w : Word) : State :=
  { (s.storeByte s.fetchAddress (w.extractLsb' 8 8)).storeByte (s.fetchAddress + 1) (w.extractLsb' 0 8) with
    loaded := true, wait := false, inputs := .executeCycles s.keypad 1 :: s.inputs }

end Sys2Proof.Machine
end

