-- ==== Sys2Proof/Machine/Step.lean ====
section
/-! DEFINITION. One step of the block: the next input event of the host (00_scope.md R6, R7). -/

namespace Sys2Proof.Machine

/-- One step: one atomic transition (R65, R107). -/
def step (s : State) : Host.Outcome State Fault Refusal := performNext s

/-- `s` with an opcode table row's word as the instruction that the very next step runs. -/
def State.withFetchWord (s : State) (nbits w : Nat) : State := s.placeWord (tableOpcode nbits w)

end Sys2Proof.Machine
end

