-- ==== Sys2Proof/Machine/Observe.lean ====
section
/-! DEFINITION. What the outside sees of the output sequence: the snapshot aggregate that staging fills (10_state.md R45,
20_memory.md R70, 70_reset_and_hazards.md R315) and the audio requests (60_exceptions.md R261, R264). Views of `outputs`, not
state. -/

namespace Sys2Proof.Machine

/-- The values that the block has staged, as the publisher holds them; `none` where nothing has been staged yet (R45). -/
structure Snapshot where
  dec : Option (Vector Byte 16 × Addr × Word × Fin 17 × Word)
  dt : Option Byte
  st : Option Byte
  chan : Option Channel
  deriving DecidableEq, Repr

/-- An aggregate in which nothing has been staged. -/
def Snapshot.empty : Snapshot := ⟨none, none, none, none⟩

/-- One staging write: "single-field, atomic" setters (R70); every other output leaves the aggregate alone. -/
def Snapshot.stage (a : Snapshot) : Output → Snapshot
  | .stagedDec v i pc sp opc => { a with dec := some (v, i, pc, sp, opc) }
  | .stagedTimers dt st => { a with dt := some dt, st := some st }
  | .stagedDelay dt => { a with dt := some dt }
  | .stagedSound st => { a with st := some st }
  | .channelState chan => { a with chan := some chan }
  | .published _ => a
  | .soundChanged _ _ => a
  | .startBeep _ => a
  | .stopBeep => a
  | .profile _ => a
  | .loadResult _ => a

/-- The aggregate after an output sequence (R45). -/
def snapshotAfter (outs : List Output) : Snapshot := outs.foldl Snapshot.stage Snapshot.empty

/-- What one output does to the audio sink's start and stop requests: `none` once two starts come without a stop between
them, or two stops without a start (R264). -/
def audioStep (playing : Option Bool) (o : Output) : Option Bool :=
  match o, playing with
  | .startBeep _, some false => some true
  | .startBeep _, _ => none
  | .stopBeep, some true => some false
  | .stopBeep, _ => none
  | .stagedDec .., p => p
  | .stagedTimers .., p => p
  | .stagedDelay _, p => p
  | .stagedSound _, p => p
  | .published _, p => p
  | .soundChanged .., p => p
  | .channelState _, p => p
  | .profile _, p => p
  | .loadResult _, p => p

/-- Whether a start was issued more recently than any stop, `none` if the requests do not alternate (R44, R264). -/
def audioAfter (outs : List Output) : Option Bool := outs.foldl audioStep (some false)

end Sys2Proof.Machine
end

