-- ==== Sys2Proof/Safety.lean ====
section
/-! DEFINITION. The terms in which claims speak: which fields two states share, the invariant of the block's states (10_state.md
R49), the cells a sprite covers, and the cycles of an event in sequence. -/

namespace Sys2Proof.Machine

/-! ## Frames -/

/-- The fields of `State`, by name. -/
inductive Field where
  | mem | v | i | pc | stack | sp | disp | wait | wreg | loaded | opc
  | dt | st | acc | cyc | hl | guide | muted | active | chan | lastV | lastC
  | inputs | outputs | keypad | draws
  deriving DecidableEq, Repr

/-- Two states agree in a field; memory and registers are compared by reading them. -/
def SameField (s t : State) : Field → Prop
  | .mem => ∀ a, t.readByte a = s.readByte a
  | .v => ∀ r, t.reg r = s.reg r
  | .i => t.i = s.i
  | .pc => t.pc = s.pc
  | .stack => t.stack = s.stack
  | .sp => t.sp = s.sp
  | .disp => t.disp = s.disp
  | .wait => t.wait = s.wait
  | .wreg => t.wreg = s.wreg
  | .loaded => t.loaded = s.loaded
  | .opc => t.opc = s.opc
  | .dt => t.dt = s.dt
  | .st => t.st = s.st
  | .acc => t.acc = s.acc
  | .cyc => t.cyc = s.cyc
  | .hl => t.hl = s.hl
  | .guide => t.guide = s.guide
  | .muted => t.muted = s.muted
  | .active => t.active = s.active
  | .chan => t.chan = s.chan
  | .lastV => t.lastV = s.lastV
  | .lastC => t.lastC = s.lastC
  | .inputs => t.inputs = s.inputs
  | .outputs => t.outputs = s.outputs
  | .keypad => t.keypad = s.keypad
  | .draws => t.draws = s.draws

/-- From `s` to `t` every field is unchanged except those listed. -/
def UnchangedBut (changed : List Field) (s t : State) : Prop := ∀ f, f ∉ changed → SameField s t f

/-- From `s` to `t` every general register is unchanged except `x` and `y`. -/
def RegsUnchangedBut (x y : Reg) (s t : State) : Prop := ∀ r, r ≠ x → r ≠ y → t.reg r = s.reg r

/-! ## The invariant -/

/-- What holds in every reachable state (R49), with the bounds of `PC`, `STACK` and `ACC` (R25, R37, R102), the alternation
of the audio requests (R264) and the snapshot's agreement with the timers and the channel (R45, R237). The other bounds of
R49 hold by the types of `State`. -/
structure Inv (s : State) : Prop where
  /-- Memory is in its canonical form. -/
  memory : s.mem.wf = true
  /-- "`WAIT = 1` implies `LOADED = 1`." -/
  waitLoaded : s.wait = true → s.loaded = true
  /-- "`ACTIVE = 1` implies `MUTED = 0`." -/
  activeUnmuted : s.active = true → s.muted = false
  /-- "`CHAN = Muted` iff `MUTED = 1`." -/
  chanMuted : s.chan = .muted ↔ s.muted = true
  /-- `CHAN` is `Active`, the one state with a `nextStopTick`, exactly while `ACTIVE = 1` (R44). -/
  chanActive : (∃ stop, s.chan.nextStopTick = some stop) ↔ s.active = true
  /-- The `frequency` of `CHAN` is `BEEP_FREQ` in every state (R44). -/
  chanFreq : s.chan.frequency = Config.beepFreq
  /-- `0 <= ACC < 1/60` (R37). -/
  accBounds : 0 ≤ s.acc ∧ s.acc < 1 / 60
  /-- `PC` is at most 0x10FE (92 D4). -/
  pcBound : s.pc.toNat ≤ 0x10FE
  /-- A return address is at most 4096 (R102, R124). -/
  stackBound : ∀ k : Fin 16, s.stack[k].toNat ≤ 4096
  /-- In the key wait `PC` addresses the `Fx0A` (R205). -/
  waitPc : s.wait = true → s.pc.toNat ≤ 4094
  /-- Starts and stops alternate, and `ACTIVE` says which came last (R44, R264). -/
  audio : audioAfter s.outputs = some s.active
  /-- The delay timer last staged is `DT`; before anything is staged `DT` has its power-on value (R45, 92 D20). -/
  stagedDelay : (snapshotAfter s.outputs).dt.getD 0#8 = s.dt
  /-- The sound timer last staged is `ST` (R45, 92 D20). -/
  stagedSound : (snapshotAfter s.outputs).st.getD 0#8 = s.st
  /-- The channel state last published is `CHAN` (R44, R263). -/
  stagedChan : (snapshotAfter s.outputs).chan.getD .inactive = s.chan

/-! ## Opcodes and events -/

/-- The unassigned opcodes of R85, by their fields. -/
def UnassignedWord (w : Word) : Prop :=
  ((fieldHi w = 0x5#4 ∨ fieldHi w = 0x9#4) ∧ fieldN w ≠ 0#4) ∨
  (fieldHi w = 0x8#4 ∧ (8 ≤ (fieldN w).toNat ∧ fieldN w ≠ 0xE#4)) ∨
  (fieldHi w = 0xE#4 ∧ fieldKk w ≠ 0x9E#8 ∧ fieldKk w ≠ 0xA1#8) ∨
  (fieldHi w = 0xF#4 ∧
    fieldKk w ∉ [0x07#8, 0x0A#8, 0x15#8, 0x18#8, 0x1E#8, 0x29#8, 0x33#8, 0x55#8, 0x65#8])

/-- The inputs that stay after one cycle of an `executeCycles` event with `n` more cycles to run (R100). -/
def cyclesLeft (keypad : Word) (n : Nat) : List Event :=
  if n = 0 then [] else [.executeCycles keypad n]

/-- `n` cycle events in sequence (R100). -/
def cyclesInSequence (keypad : Word) : Nat → State → Host.Outcome State Fault Refusal
  | 0, s => .next s
  | n + 1, s =>
    match cycle keypad s with
    | .next t => cyclesInSequence keypad n t
    | .fault r => .fault r
    | .refused r => .refused r

/-- The events of TMR, KBD and BEEP, and the publishes of other callers (R208, R271). -/
def IndependentOfWait : Event → Prop
  | .reset => False
  | .loadRom _ => False
  | .executeCycles _ _ => False
  | .setKeyState _ _ => False
  | .advance _ => True
  | .forceTick => True
  | .loadTimers _ _ => True
  | .setSoundTimer _ => True
  | .setDelayTimer _ => True
  | .handleKeyDown _ => True
  | .handleKeyUp _ => True
  | .buildProfile => True
  | .toggleMute _ => True
  | .hostPublish => True

/-! ## The display -/

/-- The sprite of `DRW Vx, Vy, n` has a set pixel on the cell at column `px` and row `py`: a row that memory holds, and a
column whose bit is 1, bit 7 leftmost, both coordinates wrapping (R191). -/
def SpriteCovers (s : State) (x y : Reg) (n : Nibble) (px py : Nat) : Prop :=
  ∃ row col, row < n.toNat ∧ col < 8 ∧ s.i.toNat + row < 4096 ∧
    (s.readByte (s.i.toNat + row)).getLsbD (7 - col) = true ∧
    ((s.reg x).toNat + col) % 64 = px ∧ ((s.reg y).toNat + row) % 32 = py

end Sys2Proof.Machine
end

