-- ==== Sys2Proof/Certificates/Slice0/Obligations.lean ====
section
/-! DEFINITION. The statements for the provers, in the order of spec/: encoding, the cycle, the instructions, the units, reset,
and the invariant. -/

open Sys2Proof Sys2Proof.Machine

/-! ## Encoding (30_encoding.md) -/

/-- Every well-formed instruction, with every operand, is what its opcode decodes to (R81 to R83). -/
def Obligations.DecodeOfEncode : Prop :=
  ∀ i : Instr, i.wf = true → decodeWord (encode i) = .ok i

/-- Every opcode that decodes is the opcode of the instruction it decodes to, and that instruction is well formed: no bit
of an opcode is lost (R81 to R83). -/
def Obligations.EncodeOfDecode : Prop :=
  ∀ (w : Word) (i : Instr), decodeWord w = .ok i → encode i = w ∧ i.wf = true

/-- The switch of R84 gives, for every word, the instruction of the first row of the opcode map of R83 that matches, and
none where no row matches. -/
def Obligations.DecoderFollowsOpcodeMap : Prop :=
  ∀ w : Word, (match decodeWord w with | .ok i => some i | .error _ => none) = decodeByMap w

/-- The unassigned opcodes are exactly those of R85; a cycle that fetches one does what every step does, the fetch and the
staging, and nothing else. That `5xyN` and `9xyN` with `N != 0` are among them is the spec's decision (92 D15). -/
def Obligations.UnassignedOpcodesAreIgnored : Prop :=
  (∀ w : Word, (∃ r, decodeWord w = .error r) ↔ UnassignedWord w) ∧
  ∀ (s : State) (keypad : Word), s.loaded = true → s.wait = false → UnassignedWord s.fetchWord →
    ∃ t, cycle keypad s = .next t ∧ t.opc = s.fetchWord ∧ t.pc.toNat = s.pc.toNat % 4095 + 2 ∧ t.keypad = keypad ∧
      t.outputs = s.outputs ++ [.stagedDec s.v s.i t.pc s.sp t.opc] ∧
      UnchangedBut [.opc, .pc, .keypad, .outputs] s t

/-- A few opcodes written out from the opcode map, one of each format (R81, R83). -/
def Obligations.SampleOpcodesDecode : Prop :=
  decodeBytes [0x00#8, 0xE0#8] = .ok .cls ∧
  decodeBytes [0x22#8, 0x0A#8] = .ok (.call 0x20A#12) ∧
  decodeBytes [0x60#8, 0xFF#8] = .ok (.ldByte 0x0#4 0xFF#8) ∧
  decodeBytes [0x82#8, 0x05#8] = .ok (.subReg 0x2#4 0x0#4) ∧
  decodeBytes [0xD1#8, 0x25#8] = .ok (.drw 0x1#4 0x2#4 0x5#4) ∧
  decodeBytes [0xF2#8, 0x0A#8] = .ok (.ldVxK 0x2#4)

/-! ## The cycle (40_cycle.md) -/

/-- The fetch reads two bytes, big-endian, at `PC mod 4095`, writes the reduced address plus 2 back to `PC`, and changes
nothing else of the block (R102). The write-back of the reduced address is the spec's decision (92 D4). -/
def Obligations.FetchIsBigEndianModulo4095 : Prop :=
  ∀ (s : State) (keypad : Word),
    (s.fetched keypad).opc.toNat =
      256 * (s.readByte (s.pc.toNat % 4095)).toNat + (s.readByte (s.pc.toNat % 4095 + 1)).toNat ∧
    (s.fetched keypad).pc.toNat = s.pc.toNat % 4095 + 2 ∧
    2 ≤ (s.fetched keypad).pc.toNat ∧ (s.fetched keypad).pc.toNat ≤ 4096 ∧
    (s.fetched keypad).keypad = keypad ∧
    UnchangedBut [.opc, .pc, .keypad] s (s.fetched keypad)

/-- A step whose next input is a cycle (the queue of inputs is the model's own, log entries 1 and 2), on a loaded machine that
is not waiting, runs the instruction that the fetched opcode decodes to, after the fetch and before the staging (R101,
R103). -/
def Obligations.StepRunsDecodedInstruction : Prop :=
  ∀ (s : State) (keypad : Word) (n : Nat) (rest : List Event) (i : Instr),
    s.inputs = .executeCycles keypad (n + 1) :: rest → s.loaded = true → s.wait = false →
    decodeWord s.fetchWord = .ok i →
    step s = mapNext State.stageDec
      (exec i ({ s with inputs := cyclesLeft keypad n ++ rest }.fetched keypad))

/-- A cycle in the key wait, or before a program is loaded, changes nothing, and uses up one cycle of its event (R32, R100,
R101, R104). That a skipped cycle counts toward `n` is the spec's decision (92 D41); that the rest of the event stays in the
queue of inputs is the model's choice (log entry 2). -/
def Obligations.SkippedCycleChangesNothing : Prop :=
  ∀ (s : State) (keypad : Word) (n : Nat) (rest : List Event),
    s.inputs = .executeCycles keypad (n + 1) :: rest → (s.wait = true ∨ s.loaded = false) →
    step s = .next { s with inputs := cyclesLeft keypad n ++ rest }

/-- A cycle that is not skipped stages the register values it ends with, last of all, and publishes nothing: the snapshot
then holds them, and `CYC` is unchanged (R105; that a cycle does not publish is the spec's decision 92 D3). -/
def Obligations.CycleStagesItsRegisters : Prop :=
  ∀ (keypad : Word) (s t : State), cycle keypad s = .next t → s.loaded = true → s.wait = false →
    (∃ before, t.outputs = before ++ [.stagedDec t.v t.i t.pc t.sp t.opc]) ∧
    (snapshotAfter t.outputs).dec = some (t.v, t.i, t.pc, t.sp, t.opc) ∧ t.opc = s.fetchWord ∧ t.cyc = s.cyc

/-- `executeCycles(keypad, n)` is `n` cycle events in sequence, one a step, and with `n = 0` nothing (R100; the event's rest
in the queue of inputs is the model's choice, log entry 2). -/
def Obligations.ExecuteCyclesRunsItsCycles : Prop :=
  ∀ (s : State) (keypad : Word) (n : Nat) (rest : List Event),
    Host.Core.run Sys2Proof.core (if n = 0 then 1 else n) { s with inputs := .executeCycles keypad n :: rest } =
      cyclesInSequence keypad n { s with inputs := rest }

/-- No instruction and no unassigned opcode stops the machine, and no event does but `advance(e)` with `e < 0`
(R106, R221, R230). -/
def Obligations.OnlyNegativeElapsedStops : Prop :=
  (∀ (i : Instr) (s : State), ∃ t, exec i s = .next t) ∧
  ∀ s : State, (∃ t, step s = .next t) ∨
    ∃ e rest, s.inputs = .advance e :: rest ∧ e < 0 ∧ step s = .refused .negativeElapsed

/-! ## Control transfer (41_control_flow.md) -/

/-- `SYS` does nothing, and `JP` writes its target, zero-extended, to `PC` (R121, R123). -/
def Obligations.SysIgnoredAndJumpSetsPc : Prop :=
  ∀ (nnn : Addr) (s : State),
    (∃ t, exec (.sys nnn) s = .next t ∧ UnchangedBut [] s t) ∧
    (∃ t, exec (.jp nnn) s = .next t ∧ t.pc.toNat = nnn.toNat ∧ UnchangedBut [.pc] s t)

/-- `JP V0` writes `nnn + V0` to `PC`; that the sum is not masked is the spec's decision (92 D14, rule R129). -/
def Obligations.JumpV0AddsV0 : Prop :=
  ∀ (nnn : Addr) (s : State), ∃ t, exec (.jpV0 nnn) s = .next t ∧
    t.pc.toNat = nnn.toNat + (s.reg 0#4).toNat ∧ UnchangedBut [.pc] s t

/-- `CALL` pushes `PC` and jumps, or does nothing when the stack is full: the spec's decision (R124, 92 D13). -/
def Obligations.CallPushesAndJumps : Prop :=
  ∀ (nnn : Addr) (s : State), ∃ t, exec (.call nnn) s = .next t ∧
    (s.sp.val = 16 → UnchangedBut [] s t) ∧
    (s.sp.val < 16 → t.sp.val = s.sp.val + 1 ∧ t.pc.toNat = nnn.toNat ∧
      (∀ k : Fin 16, t.stack[k] = if k.val = s.sp.val then s.pc else s.stack[k]) ∧
      UnchangedBut [.stack, .sp, .pc] s t)

/-- `RET` pops `PC` and leaves the popped entry in place, or does nothing when the stack is empty: the spec's decision
(R122, 92 D13). -/
def Obligations.RetPopsPc : Prop :=
  ∀ s : State, ∃ t, exec .ret s = .next t ∧
    (s.sp.val = 0 → UnchangedBut [] s t) ∧
    (∀ k : Fin 16, s.sp.val = k.val + 1 →
      t.sp.val = k.val ∧ t.pc = s.stack[k] ∧ UnchangedBut [.sp, .pc] s t)

/-- `RET` after `CALL` comes back to the instruction after the `CALL`, whatever happened to the rest of the state in
between (R122, R124, R130). -/
def Obligations.ReturnUndoesCall : Prop :=
  ∀ (nnn : Addr) (s t u : State), s.sp.val < 16 → exec (.call nnn) s = .next t →
    u.stack = t.stack → u.sp = t.sp →
    ∃ w, exec .ret u = .next w ∧ w.pc = s.pc ∧ w.sp = s.sp

/-- The four register compares skip, `PC <- PC + 2`, exactly when their condition holds (R125 to R128). -/
def Obligations.ComparesSkip : Prop :=
  ∀ (x y : Reg) (kk : Byte) (s : State),
    (∃ t, exec (.seByte x kk) s = .next t ∧ t.pc = (if s.reg x = kk then s.pc + 2 else s.pc) ∧ UnchangedBut [.pc] s t) ∧
    (∃ t, exec (.sneByte x kk) s = .next t ∧ t.pc = (if s.reg x = kk then s.pc else s.pc + 2) ∧ UnchangedBut [.pc] s t) ∧
    (∃ t, exec (.seReg x y) s = .next t ∧ t.pc = (if s.reg x = s.reg y then s.pc + 2 else s.pc) ∧
      UnchangedBut [.pc] s t) ∧
    (∃ t, exec (.sneReg x y) s = .next t ∧ t.pc = (if s.reg x = s.reg y then s.pc else s.pc + 2) ∧
      UnchangedBut [.pc] s t)

/-! ## ALU (42_alu.md) -/

/-- The loads and `ADD Vx, kk` write `V[x]` alone, and no flag (R142 to R144). -/
def Obligations.RegisterLoadsWriteOneRegister : Prop :=
  ∀ (x y : Reg) (kk : Byte) (s : State),
    (∃ t, exec (.ldByte x kk) s = .next t ∧ t.reg x = kk ∧ RegsUnchangedBut x x s t ∧ UnchangedBut [.v] s t) ∧
    (∃ t, exec (.addByte x kk) s = .next t ∧ (t.reg x).toNat = ((s.reg x).toNat + kk.toNat) % 256 ∧
      RegsUnchangedBut x x s t ∧ UnchangedBut [.v] s t) ∧
    (∃ t, exec (.ldReg x y) s = .next t ∧ t.reg x = s.reg y ∧ RegsUnchangedBut x x s t ∧ UnchangedBut [.v] s t)

/-- `OR`, `AND` and `XOR` write the result to `V[x]` and then clear `VF`; with `x = 0xF` the final `VF` is 0
(R141, R145 to R147). -/
def Obligations.BitwiseClearsFlag : Prop :=
  ∀ (x y : Reg) (s : State),
    (∃ t, exec (.orReg x y) s = .next t ∧ (x ≠ regF → t.reg x = s.reg x ||| s.reg y) ∧ t.reg regF = 0 ∧
      RegsUnchangedBut x regF s t ∧ UnchangedBut [.v] s t) ∧
    (∃ t, exec (.andReg x y) s = .next t ∧ (x ≠ regF → t.reg x = s.reg x &&& s.reg y) ∧ t.reg regF = 0 ∧
      RegsUnchangedBut x regF s t ∧ UnchangedBut [.v] s t) ∧
    (∃ t, exec (.xorReg x y) s = .next t ∧ (x ≠ regF → t.reg x = s.reg x ^^^ s.reg y) ∧ t.reg regF = 0 ∧
      RegsUnchangedBut x regF s t ∧ UnchangedBut [.v] s t)

/-- `ADD`, `SUB` and `SUBN`: the result modulo 256 in `V[x]`, then the carry or not-borrow in `VF`, which wins when
`x = 0xF`: the spec's decision (R141, R148, R149, R151; 92 D6). -/
def Obligations.AddSubWriteResultThenFlag : Prop :=
  ∀ (x y : Reg) (s : State),
    (∃ t, exec (.addReg x y) s = .next t ∧
      (x ≠ regF → (t.reg x).toNat = ((s.reg x).toNat + (s.reg y).toNat) % 256) ∧
      t.reg regF = (if (s.reg x).toNat + (s.reg y).toNat > 255 then 1 else 0) ∧
      RegsUnchangedBut x regF s t ∧ UnchangedBut [.v] s t) ∧
    (∃ t, exec (.subReg x y) s = .next t ∧
      (x ≠ regF → (t.reg x).toNat = (256 + (s.reg x).toNat - (s.reg y).toNat) % 256) ∧
      t.reg regF = (if (s.reg x).toNat ≥ (s.reg y).toNat then 1 else 0) ∧
      RegsUnchangedBut x regF s t ∧ UnchangedBut [.v] s t) ∧
    (∃ t, exec (.subnReg x y) s = .next t ∧
      (x ≠ regF → (t.reg x).toNat = (256 + (s.reg y).toNat - (s.reg x).toNat) % 256) ∧
      t.reg regF = (if (s.reg y).toNat ≥ (s.reg x).toNat then 1 else 0) ∧
      RegsUnchangedBut x regF s t ∧ UnchangedBut [.v] s t)

/-- `SHR` and `SHL` shift `V[x]` by one and put the bit shifted out in `VF`; `y` plays no part. With `x = 0xF` the
flag wins: the spec's decision (R150, R152; 92 D6). -/
def Obligations.ShiftsIgnoreY : Prop :=
  ∀ (x y : Reg) (s : State),
    (∃ t, exec (.shr x y) s = .next t ∧ (x ≠ regF → (t.reg x).toNat = (s.reg x).toNat / 2) ∧
      (t.reg regF).toNat = (s.reg x).toNat % 2 ∧ RegsUnchangedBut x regF s t ∧ UnchangedBut [.v] s t) ∧
    (∃ t, exec (.shl x y) s = .next t ∧ (x ≠ regF → (t.reg x).toNat = 2 * (s.reg x).toNat % 256) ∧
      (t.reg regF).toNat = (s.reg x).toNat / 128 ∧ RegsUnchangedBut x regF s t ∧ UnchangedBut [.v] s t)

/-- `RND` writes a byte masked with `kk`: the next free byte, whatever it is; every bit of the result is a bit of `kk`, and
each execution takes a draw of its own (R153; a free byte by the spec's decision 92 D36, log entry 6). -/
def Obligations.RandomByteIsMasked : Prop :=
  ∀ (x : Reg) (kk : Byte) (s : State), ∃ t, exec (.rnd x kk) s = .next t ∧
    t.reg x = Config.randomByte s.draws &&& kk ∧ (∀ b, (t.reg x).getLsbD b = true → kk.getLsbD b = true) ∧
    t.draws = s.draws + 1 ∧ RegsUnchangedBut x x s t ∧ UnchangedBut [.v, .draws] s t

/-! ## Index and memory (43_memory_index.md) -/

/-- `LD I`, `ADD I` and `LD F` write `I`, reduced modulo 0x1000, and nothing else (R170 to R172). The reduction of every write
and the low nibble that selects the glyph are the spec's decisions (92 D5, D8). -/
def Obligations.IndexWritesAreReduced : Prop :=
  ∀ (x : Reg) (nnn : Addr) (s : State),
    (∃ t, exec (.ldI nnn) s = .next t ∧ t.i = nnn ∧ UnchangedBut [.i] s t) ∧
    (∃ t, exec (.addI x) s = .next t ∧ t.i.toNat = (s.i.toNat + (s.reg x).toNat) % 4096 ∧ UnchangedBut [.i] s t) ∧
    (∃ t, exec (.ldF x) s = .next t ∧
      t.i.toNat = (Config.fontBase.val + 5 * ((s.reg x).toNat % 16)) % 4096 ∧ UnchangedBut [.i] s t)

/-- `LD B` stores the three decimal digits at `I`, `I+1`, `I+2`, those addresses that memory has, and changes no other byte
(R173; that the other writes are dropped is the spec's decision 92 D12). -/
def Obligations.BcdStoresThreeDigits : Prop :=
  ∀ (x : Reg) (s : State), s.mem.wf = true → ∃ t, exec (.ldB x) s = .next t ∧
    t.readByte s.i.toNat = BitVec.ofNat 8 ((s.reg x).toNat / 100) ∧
    (s.i.toNat + 1 < 4096 → t.readByte (s.i.toNat + 1) = BitVec.ofNat 8 ((s.reg x).toNat / 10 % 10)) ∧
    (s.i.toNat + 2 < 4096 → t.readByte (s.i.toNat + 2) = BitVec.ofNat 8 ((s.reg x).toNat % 10)) ∧
    (∀ a, (∀ j, j < 3 → s.i.toNat + j < 4096 → a ≠ s.i.toNat + j) → t.readByte a = s.readByte a) ∧
    UnchangedBut [.mem] s t

/-- `LD [I], Vx` stores `V0..Vx` at ascending addresses from `I`, stopping at the end of memory, and then adds `x + 1` to `I`
modulo 0x1000, whether or not it stopped early (R174). -/
def Obligations.StoreRegistersTruncates : Prop :=
  ∀ (x : Reg) (s : State), s.mem.wf = true → ∃ t, exec (.ldMemVx x) s = .next t ∧
    (∀ r : Reg, r.toNat ≤ x.toNat → s.i.toNat + r.toNat < 4096 → t.readByte (s.i.toNat + r.toNat) = s.reg r) ∧
    (∀ a, (∀ j, j ≤ x.toNat → s.i.toNat + j < 4096 → a ≠ s.i.toNat + j) → t.readByte a = s.readByte a) ∧
    t.i.toNat = (s.i.toNat + x.toNat + 1) % 4096 ∧ UnchangedBut [.mem, .i] s t

/-- `LD Vx, [I]` loads `V0..Vx` from ascending addresses from `I`; a register whose address memory does not have keeps its
value; then `I` advances by `x + 1` modulo 0x1000 (R175). -/
def Obligations.LoadRegistersTruncates : Prop :=
  ∀ (x : Reg) (s : State), ∃ t, exec (.ldVxMem x) s = .next t ∧
    (∀ r : Reg, t.reg r =
      if r.toNat ≤ x.toNat ∧ s.i.toNat + r.toNat < 4096 then s.readByte (s.i.toNat + r.toNat) else s.reg r) ∧
    t.i.toNat = (s.i.toNat + x.toNat + 1) % 4096 ∧ UnchangedBut [.v, .i] s t

/-- `Fx55`, then `Fx65` with the same `I` and memory, reproduces `V0..Vx`, as far as memory reaches (90 C3, R174, R175). -/
def Obligations.StoreThenLoadRestoresRegisters : Prop :=
  ∀ (x : Reg) (s t u : State), s.mem.wf = true → exec (.ldMemVx x) s = .next t → u.mem = t.mem → u.i = s.i →
    ∃ w, exec (.ldVxMem x) u = .next w ∧
      ∀ r : Reg, r.toNat ≤ x.toNat → s.i.toNat + r.toNat < 4096 → w.reg r = s.reg r

/-- A byte that `Fx55` or `Fx33` writes, a register or one of the three digits, is what the next fetch of that address reads,
as the first byte of the opcode or as the second (R73). -/
def Obligations.StoredBytesAreFetched : Prop :=
  ∀ (x : Reg) (s t u : State), s.mem.wf = true → u.mem = t.mem →
    (exec (.ldMemVx x) s = .next t → ∀ r : Reg, r.toNat ≤ x.toNat → s.i.toNat + r.toNat < 4096 →
      (u.fetchAddress = s.i.toNat + r.toNat → u.fetchWord.toNat / 256 = (s.reg r).toNat) ∧
      (u.fetchAddress + 1 = s.i.toNat + r.toNat → u.fetchWord.toNat % 256 = (s.reg r).toNat)) ∧
    (exec (.ldB x) s = .next t →
      ∀ k digit, (k, digit) ∈ [(0, (s.reg x).toNat / 100), (1, (s.reg x).toNat / 10 % 10), (2, (s.reg x).toNat % 10)] →
        s.i.toNat + k < 4096 →
        (u.fetchAddress = s.i.toNat + k → u.fetchWord.toNat / 256 = digit) ∧
        (u.fetchAddress + 1 = s.i.toNat + k → u.fetchWord.toNat % 256 = digit))

/-- Memory is one array of bytes: a read gives the last byte written there, and a write leaves every other address alone and
keeps the canonical form (R28, R69). -/
def Obligations.ReadAfterWrite : Prop :=
  ∀ (s : State) (a b : Nat) (val : Byte), s.mem.wf = true → a < 4096 →
    (s.storeByte a val).mem.wf = true ∧
    (s.storeByte a val).readByte b = (if b = a then val else s.readByte b)

/-! ## Display (44_display.md) -/

/-- `CLS` clears every cell and nothing else (R190). -/
def Obligations.ClsClearsEveryCell : Prop :=
  ∀ s : State, ∃ t, exec .cls s = .next t ∧ (∀ px py, px < 64 → py < 32 → t.cell px py = false) ∧
    UnchangedBut [.disp] s t

/-- `DRW` flips exactly the cells that the sprite covers, each of them once, and sets `VF` to 1 when a covered cell was set,
else to 0. `I` and every other register stay (R191; the captured coordinates and the end of memory are the spec's decision 92
D11). -/
def Obligations.DrawFlipsCoveredCells : Prop :=
  ∀ (x y : Reg) (n : Nibble) (s : State), ∃ t, exec (.drw x y n) s = .next t ∧
    (∀ px py, px < 64 → py < 32 →
      (SpriteCovers s x y n px py → t.cell px py = !s.cell px py) ∧
      (¬ SpriteCovers s x y n px py → t.cell px py = s.cell px py)) ∧
    ((∃ px py, px < 64 ∧ py < 32 ∧ SpriteCovers s x y n px py ∧ s.cell px py = true) → t.reg regF = 1) ∧
    ((¬ ∃ px py, px < 64 ∧ py < 32 ∧ SpriteCovers s x y n px py ∧ s.cell px py = true) → t.reg regF = 0) ∧
    RegsUnchangedBut regF regF s t ∧ UnchangedBut [.v, .disp] s t

/-- Drawing the same sprite twice at coordinates not held in `VF` restores the display (R191; the source's example W6). -/
def Obligations.DrawingTwiceRestoresDisplay : Prop :=
  ∀ (x y : Reg) (n : Nibble) (s t u : State), x ≠ regF → y ≠ regF →
    exec (.drw x y n) s = .next t → exec (.drw x y n) t = .next u →
    u.disp = s.disp ∧
    ((∃ px py, px < 64 ∧ py < 32 ∧ SpriteCovers s x y n px py ∧ s.cell px py = false) → u.reg regF = 1) ∧
    ((¬ ∃ px py, px < 64 ∧ py < 32 ∧ SpriteCovers s x y n px py ∧ s.cell px py = false) → u.reg regF = 0)

/-- The render sink gets 2048 bytes of 0 or 1 in row-major order, and the sizes 64 and 32 (R192, R29; the order
is the spec's decision 92 D30). -/
def Obligations.RenderBufferIsRowMajor : Prop :=
  ∀ s : State, s.renderBuffer.1.length = 2048 ∧ s.renderBuffer.2 = (64, 32) ∧
    ∀ px py, px < 64 → py < 32 → s.renderBuffer.1[py * 64 + px]? = some (if s.cell px py then 1 else 0)

/-! ## Timer and key instructions (45_timer_key.md) -/

/-- `SKP` and `SKNP` test the bit of the running event's `keypad` that the low nibble of `V[x]` names, and skip when it is
1, or 0 (R203, R204; the low nibble is the spec's decision 92 D7). -/
def Obligations.KeyTestsReadKeypad : Prop :=
  ∀ (x : Reg) (s : State),
    (∃ t, exec (.skp x) s = .next t ∧
      t.pc = (if s.keypad.toNat / 2 ^ ((s.reg x).toNat % 16) % 2 = 1 then s.pc + 2 else s.pc) ∧
      UnchangedBut [.pc] s t) ∧
    (∃ t, exec (.sknp x) s = .next t ∧
      t.pc = (if s.keypad.toNat / 2 ^ ((s.reg x).toNat % 16) % 2 = 0 then s.pc + 2 else s.pc) ∧
      UnchangedBut [.pc] s t)

/-- `LD Vx, DT` reads the delay timer; `LD DT, Vx` writes it, stages it and notifies nobody (R200, R201; the spec's
decisions 92 D18, D20). -/
def Obligations.DelayTimerInstructions : Prop :=
  ∀ (x : Reg) (s : State),
    (∃ t, exec (.ldVxDt x) s = .next t ∧ t.reg x = s.dt ∧ RegsUnchangedBut x x s t ∧ UnchangedBut [.v] s t) ∧
    (∃ t, exec (.ldDtVx x) s = .next t ∧ t.dt = s.reg x ∧ t.outputs = s.outputs ++ [.stagedDelay (s.reg x)] ∧
      UnchangedBut [.dt, .outputs] s t)

/-- `LD ST, Vx` writes and stages the sound timer and notifies BEEP with the value and the current `CYC`, whatever the old
value; BEEP starts, stops or stays (R202, R234, R236, R260; the spec's decisions 92 D18, D20 to D23). -/
def Obligations.SoundTimerInstruction : Prop :=
  ∀ (x : Reg) (s : State), ∃ t, exec (.ldStVx x) s = .next t ∧ t.st = s.reg x ∧
    t.lastV = s.reg x ∧ t.lastC = s.cyc ∧
    t.outputs = s.outputs ++ [.stagedSound (s.reg x), .soundChanged (s.reg x) s.cyc] ++
      (if s.muted then (if s.active then [.stopBeep] else []) ++ [.channelState .muted]
       else if s.reg x ≠ 0 ∧ s.active = false then
         [.startBeep Config.beepFreq, .channelState (.active Config.beepFreq (s.cyc + (s.reg x).toNat))]
       else if s.reg x = 0 ∧ s.active = true then [.stopBeep, .channelState .inactive]
       else []) ∧
    t.active = (!s.muted && (s.reg x != 0)) ∧
    t.chan = (if s.muted then .muted
      else if s.reg x ≠ 0 ∧ s.active = false then .active Config.beepFreq (s.cyc + (s.reg x).toNat)
      else if s.reg x = 0 ∧ s.active = true then .inactive else s.chan) ∧
    UnchangedBut [.st, .active, .chan, .lastV, .lastC, .outputs] s t

/-- `LD Vx, K` enters the key wait for `V[x]` without writing it, and takes `PC` back by 2; after the whole cycle `PC`
addresses the `Fx0A` again, and the cycle has staged its registers (R205). -/
def Obligations.KeyWaitEntry : Prop :=
  (∀ (x : Reg) (s : State), ∃ t, exec (.ldVxK x) s = .next t ∧ t.wait = true ∧ t.wreg = x ∧ t.pc = s.pc - 2 ∧
    UnchangedBut [.wait, .wreg, .pc] s t) ∧
  ∀ (x : Reg) (keypad : Word) (s : State), s.loaded = true → s.wait = false → s.fetchWord = encode (.ldVxK x) →
    ∃ t, cycle keypad s = .next t ∧ t.wait = true ∧ t.wreg = x ∧ t.pc.toNat = s.pc.toNat % 4095 ∧
      t.outputs = s.outputs ++ [.stagedDec s.v s.i t.pc s.sp t.opc]

/-- `setKeyState(k, pressed)`: a press while waiting writes `k` to `V[WREG]`, clears the wait and, under `Advance` only, adds
2 to `PC`; otherwise nothing. It stages nothing (R206; the spec's decisions 92 D16, D17). -/
def Obligations.KeyPressReleasesWait : Prop :=
  (∀ (s : State) (k : Nibble) (pressed : Bool) (rest : List Event), s.inputs = .setKeyState k pressed :: rest →
    step s = .next (setKeyStateWith Config.keyWaitResume k pressed { s with inputs := rest })) ∧
  ∀ (resume : KeyWaitResume) (s : State) (k : Nibble) (pressed : Bool),
    (s.wait = true ∧ pressed = true →
      (setKeyStateWith resume k pressed s).reg s.wreg = k.setWidth 8 ∧
      (setKeyStateWith resume k pressed s).wait = false ∧
      (setKeyStateWith resume k pressed s).pc = (if resume = .advance then s.pc + 2 else s.pc) ∧
      RegsUnchangedBut s.wreg s.wreg s (setKeyStateWith resume k pressed s) ∧
      UnchangedBut [.v, .wait, .pc] s (setKeyStateWith resume k pressed s)) ∧
    (¬ (s.wait = true ∧ pressed = true) → setKeyStateWith resume k pressed s = s)

/-- Under `Reexecute` the cycle after a release executes the same `Fx0A` and waits again, the written register kept; under
`Advance` the next fetch is at the instruction after it (R207; the open parameter of 92 D16). -/
def Obligations.ResumeAfterKeyWait : Prop :=
  ∀ (x : Reg) (k : Nibble) (keypad keypad' : Word) (s t : State),
    s.loaded = true → s.wait = false → s.fetchWord = encode (.ldVxK x) → cycle keypad s = .next t →
    (∃ u, cycle keypad' (setKeyStateWith .reexecute k true t) = .next u ∧
      u.wait = true ∧ u.wreg = x ∧ u.pc.toNat = s.pc.toNat % 4095 ∧ u.reg x = k.setWidth 8) ∧
    (setKeyStateWith .advance k true t).pc.toNat = s.pc.toNat % 4095 + 2 ∧
    (setKeyStateWith .advance k true t).wait = false

/-- Only the cycle that executes an `Fx0A` enters the key wait, and only a key press, `reset` and `loadRom` leave it; the
events of TMR, KBD and BEEP do not depend on it (R208). -/
def Obligations.OnlyKeyPressOrResetLeavesWait : Prop :=
  (∀ s t : State, step s = .next t →
    (s.wait = true → t.wait = false →
      ∃ rest, (∃ k, s.inputs = .setKeyState k true :: rest) ∨ s.inputs = .reset :: rest ∨
        ∃ bytes, s.inputs = .loadRom bytes :: rest) ∧
    (s.wait = false → t.wait = true →
      ∃ keypad n rest x, s.inputs = .executeCycles keypad (n + 1) :: rest ∧ decodeWord s.fetchWord = .ok (.ldVxK x))) ∧
  ∀ (s : State) (waiting : Bool) (e : Event), IndependentOfWait e →
    perform e { s with wait := waiting } = mapNext (fun t => { t with wait := waiting }) (perform e s)

/-! ## What instructions reach (10_state.md) -/

/-- Which instructions write which state: every instruction leaves `LOADED`, `OPC`, `ACC`, `CYC`, `HL`, `GUIDE`, `MUTED` and
the pending inputs alone, and each of the other fields changes only by the instructions that its rule names (R23 to R31,
R35, R36, R60, R227; derived by the spec from its rules). -/
def Obligations.OnlyNamedInstructionsWrite : Prop :=
  ∀ (i : Instr) (s t : State), exec i s = .next t →
    (t.loaded = s.loaded ∧ t.opc = s.opc ∧ t.acc = s.acc ∧ t.cyc = s.cyc ∧ t.hl = s.hl ∧ t.guide = s.guide ∧
      t.muted = s.muted ∧ t.inputs = s.inputs ∧ t.keypad = s.keypad) ∧
    (t.mem ≠ s.mem → ∃ x, i = .ldB x ∨ i = .ldMemVx x) ∧
    (t.pc ≠ s.pc → i = .ret ∨ (∃ nnn, i = .jp nnn ∨ i = .call nnn ∨ i = .jpV0 nnn) ∨
      (∃ x kk, i = .seByte x kk ∨ i = .sneByte x kk) ∨ (∃ x y, i = .seReg x y ∨ i = .sneReg x y) ∨
      ∃ x, i = .skp x ∨ i = .sknp x ∨ i = .ldVxK x) ∧
    (t.disp ≠ s.disp → i = .cls ∨ ∃ x y n, i = .drw x y n) ∧
    (t.stack ≠ s.stack → ∃ nnn, i = .call nnn) ∧
    (t.sp ≠ s.sp → i = .ret ∨ ∃ nnn, i = .call nnn) ∧
    (t.i ≠ s.i → (∃ nnn, i = .ldI nnn) ∨ ∃ x, i = .addI x ∨ i = .ldF x ∨ i = .ldMemVx x ∨ i = .ldVxMem x) ∧
    ((t.wait ≠ s.wait ∨ t.wreg ≠ s.wreg) → ∃ x, i = .ldVxK x) ∧
    (t.dt ≠ s.dt → ∃ x, i = .ldDtVx x) ∧
    ((t.st ≠ s.st ∨ t.active ≠ s.active ∨ t.chan ≠ s.chan ∨ t.lastV ≠ s.lastV ∨ t.lastC ≠ s.lastC) →
      ∃ x, i = .ldStVx x) ∧
    (t.outputs ≠ s.outputs → ∃ x, i = .ldDtVx x ∨ i = .ldStVx x) ∧
    (t.draws ≠ s.draws → ∃ x kk, i = .rnd x kk) ∧
    (t.v ≠ s.v →
      (∃ x kk, i = .ldByte x kk ∨ i = .addByte x kk ∨ i = .rnd x kk) ∨
      (∃ x y, i = .ldReg x y ∨ i = .orReg x y ∨ i = .andReg x y ∨ i = .xorReg x y ∨ i = .addReg x y ∨
        i = .subReg x y ∨ i = .shr x y ∨ i = .subnReg x y ∨ i = .shl x y) ∨
      (∃ x y n, i = .drw x y n) ∨ ∃ x, i = .ldVxDt x ∨ i = .ldVxMem x)

/-! ## TMR (60_exceptions.md) -/

/-- `forceTick()`, one tick: decrement the nonzero timers, stage both, publish with `CYC + 1`, and only then, if `ST` was
nonzero, notify BEEP with the new value and the new `CYC`; `ACC` is unchanged (R231, R232). That BEEP's `updateSoundTimer` runs
within the same event is the spec's decision (R236, 92 D21). -/
def Obligations.TickOrder : Prop :=
  ∀ (s : State) (rest : List Event), s.inputs = .forceTick :: rest → ∃ u,
    u.dt.toNat = s.dt.toNat - 1 ∧ u.st.toNat = s.st.toNat - 1 ∧ u.cyc = s.cyc + 1 ∧ u.inputs = rest ∧
    u.outputs = s.outputs ++ [.stagedTimers u.dt u.st, .published u.cyc] ++
      (if s.st = 0 then [] else [.soundChanged u.st u.cyc]) ∧
    UnchangedBut [.dt, .st, .cyc, .inputs, .outputs] s u ∧
    step s = .next (if s.st = 0 then u else updateSoundTimer u.st u.cyc u)

/-- `advance(e)` fires `floor((ACC + e) * 60)` ticks and keeps the remainder, `0 <= ACC < 1/60`; `e < 0` has no step
(R230; exact rational time and the refusal are the spec's decision 92 D19). -/
def Obligations.AdvanceFiresWholeTicks : Prop :=
  ∀ (s : State) (e : Rat) (rest : List Event), s.inputs = .advance e :: rest → 0 ≤ s.acc →
    (e < 0 → step s = .refused .negativeElapsed) ∧
    (0 ≤ e → ∃ (n : Nat) (t : State), (n : Int) = ((s.acc + e) * 60).floor ∧
      t.acc = s.acc + e - n / 60 ∧ 0 ≤ t.acc ∧ t.acc < 1 / 60 ∧
      t = tick^[n] { s with inputs := rest, acc := t.acc } ∧ step s = .next t)

/-- Splitting the elapsed time changes nothing: `advance(d)` and then `advance(e)` end in the state of `advance(d + e)`
("preserving leftover remainder across calls", R230). -/
def Obligations.AdvanceIsDriftFree : Prop :=
  ∀ (s t u w : State) (d e : Rat), 0 ≤ s.acc → 0 ≤ d → 0 ≤ e →
    advance d s = .next t → advance e t = .next u → advance (d + e) s = .next w → u = w

/-- `loadTimers`, `setSoundTimer` and `setDelayTimer`: what each writes and stages, and the notification with the current
`CYC` that the first two always send and the third never does (R233 to R236; the spec's decisions 92 D20, D21). -/
def Obligations.TimerSettersNotify : Prop :=
  ∀ (s : State) (d snd : Byte) (rest : List Event),
    (s.inputs = .loadTimers d snd :: rest →
      step s = .next (updateSoundTimer snd s.cyc { s with
        inputs := rest, dt := d, st := snd
        outputs := s.outputs ++ [.stagedTimers d snd, .soundChanged snd s.cyc] })) ∧
    (s.inputs = .setSoundTimer snd :: rest →
      step s = .next (updateSoundTimer snd s.cyc { s with
        inputs := rest, st := snd
        outputs := s.outputs ++ [.stagedSound snd, .soundChanged snd s.cyc] })) ∧
    (s.inputs = .setDelayTimer d :: rest →
      step s = .next { s with inputs := rest, dt := d, outputs := s.outputs ++ [.stagedDelay d] })

/-- `CYC` never decreases: a step adds exactly 1 for each snapshot it publishes, and `hostPublish` adds 1 (R40, R238; the
spec's decisions 92 D3, D39). -/
def Obligations.CycCountsPublishes : Prop :=
  ∀ s t : State, step s = .next t → ∃ new, t.outputs = s.outputs ++ new ∧
    t.cyc = s.cyc + new.countP (fun o => match o with | .published _ => true | _ => false) +
      (if s.inputs.head? = some .hostPublish then 1 else 0)

/-- The beep that `setSoundTimer(v)` starts with `v > 0` on an idle, unmuted unit stays active for the next `v - 1` ticks and
stops at the tick whose `CYC` is `nextStopTick = c + v`, if only ticks come in between (R260,
derived by the spec). -/
def Obligations.BeepStopsAtNextStopTick : Prop :=
  ∀ (s : State) (val : Byte), s.muted = false → s.active = false → 0 < val.toNat →
    (∀ k, k < val.toNat →
      (tick^[k] (setSoundTimer val s)).active = true ∧
      (tick^[k] (setSoundTimer val s)).chan = .active Config.beepFreq (s.cyc + val.toNat) ∧
      (tick^[k] (setSoundTimer val s)).cyc = s.cyc + k) ∧
    (tick^[val.toNat] (setSoundTimer val s)).active = false ∧
    (tick^[val.toNat] (setSoundTimer val s)).chan = .inactive ∧
    (tick^[val.toNat] (setSoundTimer val s)).st = 0 ∧
    (tick^[val.toNat] (setSoundTimer val s)).cyc = s.cyc + val.toNat

/-! ## BEEP (60_exceptions.md) -/

/-- The transition rules of `updateSoundTimer(v, c)`, in order: muted, start, stop, and none (R260; `LASTV` and
`LASTC` are the spec's decision 92 D22). -/
def Obligations.BeepTransitions : Prop :=
  ∀ (s : State) (val : Byte) (c : Nat),
    (s.muted = true →
      updateSoundTimer val c s = { s with
        lastV := val, lastC := c, active := false, chan := .muted
        outputs := s.outputs ++ (if s.active then [.stopBeep] else []) ++ [.channelState .muted] }) ∧
    (s.muted = false → val ≠ 0 → s.active = false →
      updateSoundTimer val c s = { s with
        lastV := val, lastC := c, active := true
        chan := .active Config.beepFreq (c + val.toNat)
        outputs := s.outputs ++
          [.startBeep Config.beepFreq, .channelState (.active Config.beepFreq (c + val.toNat))] }) ∧
    (s.muted = false → val = 0 → s.active = true →
      updateSoundTimer val c s = { s with
        lastV := val, lastC := c, active := false, chan := .inactive
        outputs := s.outputs ++ [.stopBeep, .channelState .inactive] }) ∧
    (s.muted = false → (val ≠ 0 ↔ s.active = true) →
      updateSoundTimer val c s = { s with lastV := val, lastC := c })

/-- `toggleMute(flag)` re-evaluates with the last notification and always republishes: mute, restart, keep, or inactive
(R262; the spec's decision 92 D22). -/
def Obligations.ToggleMuteReevaluates : Prop :=
  ∀ (s : State) (flag : Bool) (rest : List Event), s.inputs = .toggleMute flag :: rest → ∃ t, step s = .next t ∧
    t.muted = flag ∧
    t.active = (!flag && (s.active || s.lastV != 0)) ∧
    t.chan = (if flag then .muted
      else if s.lastV ≠ 0 ∧ s.active = false then .active Config.beepFreq (s.lastC + s.lastV.toNat)
      else if s.active then s.chan else .inactive) ∧
    t.outputs = s.outputs ++
      (if flag ∧ s.active then [.stopBeep]
        else if flag = false ∧ s.lastV ≠ 0 ∧ s.active = false then [.startBeep Config.beepFreq] else []) ++
      [.channelState t.chan] ∧
    t.inputs = rest ∧ UnchangedBut [.muted, .active, .chan, .outputs, .inputs] s t

/-- While muted no event but `toggleMute(0)` issues a start request (R260, R262; the source's example W12). -/
def Obligations.MutedNeverStarts : Prop :=
  ∀ s t : State, step s = .next t → s.muted = true → s.inputs.head? ≠ some (.toggleMute false) →
    ∃ new, t.outputs = s.outputs ++ new ∧ ∀ freq, Output.startBeep freq ∉ new

/-! ## KBD (60_exceptions.md) -/

/-- `lookup(code)` is the unique nibble whose key code equals the code after case folding, or `none` (R253;
ASCII folding is the spec's decision 92 D35). -/
def Obligations.LookupIsUniqueInverse : Prop :=
  ∀ (code : String) (k : Fin 16),
    (lookup code = some k ↔ foldCode Config.keyMap.key[k] = foldCode code) ∧
    (lookup code = none ↔ ∀ j : Fin 16, foldCode Config.keyMap.key[j] ≠ foldCode code)

/-- A mapped key-down or key-up sets or clears its highlight bit alone; an unmapped key-down latches the guidance, an unmapped
key-up does nothing (R252, R254; what a mapped key-down does to the latch is the spec's decision 92 D28, D38). -/
def Obligations.KeyEventsSetHighlightOrGuidance : Prop :=
  ∀ (s : State) (code : String) (rest : List Event),
    (s.inputs = .handleKeyDown code :: rest → ∃ t, step s = .next t ∧ t.inputs = rest ∧
      (lookup code = none → t.guide = some (Config.guidance code) ∧ UnchangedBut [.guide, .inputs] s t) ∧
      (∀ k, lookup code = some k →
        (∀ j : Fin 16, t.hl[j] = if j = k then true else s.hl[j]) ∧ UnchangedBut [.hl, .inputs] s t)) ∧
    (s.inputs = .handleKeyUp code :: rest → ∃ t, step s = .next t ∧ t.inputs = rest ∧
      (lookup code = none → UnchangedBut [.inputs] s t) ∧
      (∀ k, lookup code = some k →
        (∀ j : Fin 16, t.hl[j] = if j = k then false else s.hl[j]) ∧ UnchangedBut [.hl, .inputs] s t))

/-- `buildProfile()` returns the map, the labels, the highlight bits and the latched guidance, and consumes the latch, so that
a second call right after it returns none (R255, R258). -/
def Obligations.ProfileConsumesGuidance : Prop :=
  ∀ (s : State) (rest : List Event),
    (s.inputs = .buildProfile :: rest → ∃ t, step s = .next t ∧
      t.outputs = s.outputs ++ [.profile ⟨Config.keyMap.key, Config.keyLabels, s.hl, s.guide⟩] ∧
      t.guide = none ∧ t.inputs = rest ∧ UnchangedBut [.guide, .outputs, .inputs] s t) ∧
    (s.inputs = .buildProfile :: .buildProfile :: rest →
      ∃ t, Host.Core.run Sys2Proof.core 2 s = .next t ∧
        t.outputs = s.outputs ++ [.profile ⟨Config.keyMap.key, Config.keyLabels, s.hl, s.guide⟩,
          .profile ⟨Config.keyMap.key, Config.keyLabels, s.hl, none⟩])

/-- KBD's events change `HL` and `GUIDE` alone, beside the input they use up and the profile they return (R256). -/
def Obligations.KeyboardIsIsolated : Prop :=
  ∀ (s t : State) (e : Event) (rest : List Event), s.inputs = e :: rest → step s = .next t →
    ((∃ code, e = .handleKeyDown code ∨ e = .handleKeyUp code) → UnchangedBut [.hl, .guide, .inputs] s t) ∧
    (e = .buildProfile → UnchangedBut [.guide, .inputs, .outputs] s t)

/-! ## Reset and load (70_reset_and_hazards.md) -/

/-- At power-on every field has the value of the power-on column, memory reads 0 but for the font, and nothing has been
emitted (R302, R305, R28; the spec's decisions 92 D5, D24, D31 to D33). The outputs are the model's own field (log entry 4). -/
def Obligations.PowerOnState : Prop :=
  (∀ a, a < 4096 → State.reset.readByte a =
    if Config.fontBase.val ≤ a ∧ a < Config.fontBase.val + 80 then Config.fontData (a - Config.fontBase.val) else 0) ∧
  (∀ r, State.reset.reg r = 0) ∧ State.reset.i = 0 ∧ State.reset.pc = 0x200 ∧
  (∀ k : Fin 16, State.reset.stack[k] = 0) ∧ State.reset.sp = 0 ∧
  (∀ px py, px < 64 → py < 32 → State.reset.cell px py = false) ∧
  State.reset.wait = false ∧ State.reset.wreg = 0 ∧ State.reset.loaded = false ∧ State.reset.opc = 0 ∧
  State.reset.dt = 0 ∧ State.reset.st = 0 ∧ State.reset.acc = 0 ∧ State.reset.cyc = 0 ∧
  (∀ k : Fin 16, State.reset.hl[k] = false) ∧ State.reset.guide = none ∧ State.reset.muted = false ∧
  State.reset.active = false ∧ State.reset.chan = .inactive ∧ State.reset.lastV = 0 ∧ State.reset.lastC = 0 ∧
  State.reset.outputs = []

/-- `reset()` leaves DEC in the state of power-on, stages it, and zeroes the timers through `loadTimers(0, 0)`, whose
notification stops an active beep; `ACC`, `CYC`, `HL`, `GUIDE` and `MUTED` stay (R300; the spec's decisions
92 D5, D32, D33, D40). -/
def Obligations.ResetLeavesFreshMachine : Prop :=
  ∀ (s : State) (rest : List Event), s.inputs = .reset :: rest → ∃ t, step s = .next t ∧
    t.mem = State.reset.mem ∧ t.v = State.reset.v ∧ t.i = 0 ∧ t.pc = 0x200 ∧ t.stack = State.reset.stack ∧ t.sp = 0 ∧
    t.disp = State.reset.disp ∧ t.wait = false ∧ t.wreg = 0 ∧ t.loaded = false ∧ t.opc = 0 ∧ t.dt = 0 ∧ t.st = 0 ∧
    t.active = false ∧ t.lastV = 0 ∧ t.lastC = s.cyc ∧
    t.chan = (if s.muted then .muted else if s.active then .inactive else s.chan) ∧
    t.outputs = s.outputs ++
      [.stagedDec State.reset.v 0 0x200 0 0, .stagedTimers 0 0, .soundChanged 0 s.cyc] ++
      (if s.active then [.stopBeep] else []) ++
      (if s.muted then [.channelState .muted] else if s.active then [.channelState .inactive] else []) ∧
    t.acc = s.acc ∧ t.cyc = s.cyc ∧ t.hl = s.hl ∧ t.guide = s.guide ∧ t.muted = s.muted ∧ t.inputs = rest

/-- `loadRom(bytes)` resets first; more than 3584 bytes fail, with no byte copied and `LOADED = 0`; else the bytes lie at
0x200, every other byte is as after reset, and `LOADED = 1` (R301, R67, R220). That a failed load leaves the reset state,
because the reset comes first, is the spec's decision (90_conflicts.md C1, 92 D34; log entry 17). -/
def Obligations.LoadRomIsAllOrNothing : Prop :=
  ∀ (s : State) (bytes : List Byte) (rest : List Event), s.inputs = .loadRom bytes :: rest → ∃ r t,
    step { s with inputs := .reset :: rest } = .next r ∧ step s = .next t ∧
    (3584 < bytes.length → t = { r with outputs := r.outputs ++ [.loadResult .romTooLarge] }) ∧
    (bytes.length ≤ 3584 →
      t.loaded = true ∧ t.outputs = r.outputs ++ [.loadResult .ok] ∧
      (∀ k, (h : k < bytes.length) → t.readByte (0x200 + k) = bytes[k]) ∧
      (∀ a, a < 0x200 ∨ 0x200 + bytes.length ≤ a → t.readByte a = r.readByte a) ∧
      UnchangedBut [.mem, .loaded, .outputs] r t)

/-- `hostPublish()` adds 1 to `CYC` and has no other effect on the block (R238; the spec's decision 92 D39). -/
def Obligations.HostPublishCounts : Prop :=
  ∀ (s : State) (rest : List Event), s.inputs = .hostPublish :: rest → ∃ t, step s = .next t ∧
    t.cyc = s.cyc + 1 ∧ t.inputs = rest ∧ UnchangedBut [.cyc, .inputs] s t

/-! ## The invariant (10_state.md R49) -/

/-- The invariant holds at power-on. -/
def Obligations.InvHoldsAtReset : Prop := Inv State.reset

/-- Every step keeps the invariant, from every state that has it (R49, with R25, R37, R44, R45, R102, R264). -/
def Obligations.StepKeepsInv : Prop := ∀ s t : State, Inv s → step s = .next t → Inv t
end

