-- ==== Sys2Proof/Laws/State.lean ====
section
/-! SUPPORT. One lemma for each field after each update of the state, so that no proof unfolds an update. -/

namespace Sys2Proof.Machine

/-! ## `setReg` -/

@[simp] theorem State.setReg_mem (s : State) (x : Reg) (val : Byte) : (s.setReg x val).mem = s.mem := rfl
@[simp] theorem State.setReg_v (s : State) (x : Reg) (val : Byte) : (s.setReg x val).v = s.v.set x.toNat val := rfl
@[simp] theorem State.setReg_i (s : State) (x : Reg) (val : Byte) : (s.setReg x val).i = s.i := rfl
@[simp] theorem State.setReg_pc (s : State) (x : Reg) (val : Byte) : (s.setReg x val).pc = s.pc := rfl
@[simp] theorem State.setReg_stack (s : State) (x : Reg) (val : Byte) : (s.setReg x val).stack = s.stack := rfl
@[simp] theorem State.setReg_sp (s : State) (x : Reg) (val : Byte) : (s.setReg x val).sp = s.sp := rfl
@[simp] theorem State.setReg_disp (s : State) (x : Reg) (val : Byte) : (s.setReg x val).disp = s.disp := rfl
@[simp] theorem State.setReg_wait (s : State) (x : Reg) (val : Byte) : (s.setReg x val).wait = s.wait := rfl
@[simp] theorem State.setReg_wreg (s : State) (x : Reg) (val : Byte) : (s.setReg x val).wreg = s.wreg := rfl
@[simp] theorem State.setReg_loaded (s : State) (x : Reg) (val : Byte) : (s.setReg x val).loaded = s.loaded := rfl
@[simp] theorem State.setReg_opc (s : State) (x : Reg) (val : Byte) : (s.setReg x val).opc = s.opc := rfl
@[simp] theorem State.setReg_dt (s : State) (x : Reg) (val : Byte) : (s.setReg x val).dt = s.dt := rfl
@[simp] theorem State.setReg_st (s : State) (x : Reg) (val : Byte) : (s.setReg x val).st = s.st := rfl
@[simp] theorem State.setReg_acc (s : State) (x : Reg) (val : Byte) : (s.setReg x val).acc = s.acc := rfl
@[simp] theorem State.setReg_cyc (s : State) (x : Reg) (val : Byte) : (s.setReg x val).cyc = s.cyc := rfl
@[simp] theorem State.setReg_hl (s : State) (x : Reg) (val : Byte) : (s.setReg x val).hl = s.hl := rfl
@[simp] theorem State.setReg_guide (s : State) (x : Reg) (val : Byte) : (s.setReg x val).guide = s.guide := rfl
@[simp] theorem State.setReg_muted (s : State) (x : Reg) (val : Byte) : (s.setReg x val).muted = s.muted := rfl
@[simp] theorem State.setReg_active (s : State) (x : Reg) (val : Byte) : (s.setReg x val).active = s.active := rfl
@[simp] theorem State.setReg_chan (s : State) (x : Reg) (val : Byte) : (s.setReg x val).chan = s.chan := rfl
@[simp] theorem State.setReg_lastV (s : State) (x : Reg) (val : Byte) : (s.setReg x val).lastV = s.lastV := rfl
@[simp] theorem State.setReg_lastC (s : State) (x : Reg) (val : Byte) : (s.setReg x val).lastC = s.lastC := rfl
@[simp] theorem State.setReg_inputs (s : State) (x : Reg) (val : Byte) : (s.setReg x val).inputs = s.inputs := rfl
@[simp] theorem State.setReg_outputs (s : State) (x : Reg) (val : Byte) : (s.setReg x val).outputs = s.outputs := rfl
@[simp] theorem State.setReg_keypad (s : State) (x : Reg) (val : Byte) : (s.setReg x val).keypad = s.keypad := rfl
@[simp] theorem State.setReg_draws (s : State) (x : Reg) (val : Byte) : (s.setReg x val).draws = s.draws := rfl

/-! ## `setI` -/

@[simp] theorem State.setI_mem (s : State) (val : Nat) : (s.setI val).mem = s.mem := rfl
@[simp] theorem State.setI_v (s : State) (val : Nat) : (s.setI val).v = s.v := rfl
@[simp] theorem State.setI_i (s : State) (val : Nat) : (s.setI val).i = BitVec.ofNat 12 val := rfl
@[simp] theorem State.setI_pc (s : State) (val : Nat) : (s.setI val).pc = s.pc := rfl
@[simp] theorem State.setI_stack (s : State) (val : Nat) : (s.setI val).stack = s.stack := rfl
@[simp] theorem State.setI_sp (s : State) (val : Nat) : (s.setI val).sp = s.sp := rfl
@[simp] theorem State.setI_disp (s : State) (val : Nat) : (s.setI val).disp = s.disp := rfl
@[simp] theorem State.setI_wait (s : State) (val : Nat) : (s.setI val).wait = s.wait := rfl
@[simp] theorem State.setI_wreg (s : State) (val : Nat) : (s.setI val).wreg = s.wreg := rfl
@[simp] theorem State.setI_loaded (s : State) (val : Nat) : (s.setI val).loaded = s.loaded := rfl
@[simp] theorem State.setI_opc (s : State) (val : Nat) : (s.setI val).opc = s.opc := rfl
@[simp] theorem State.setI_dt (s : State) (val : Nat) : (s.setI val).dt = s.dt := rfl
@[simp] theorem State.setI_st (s : State) (val : Nat) : (s.setI val).st = s.st := rfl
@[simp] theorem State.setI_acc (s : State) (val : Nat) : (s.setI val).acc = s.acc := rfl
@[simp] theorem State.setI_cyc (s : State) (val : Nat) : (s.setI val).cyc = s.cyc := rfl
@[simp] theorem State.setI_hl (s : State) (val : Nat) : (s.setI val).hl = s.hl := rfl
@[simp] theorem State.setI_guide (s : State) (val : Nat) : (s.setI val).guide = s.guide := rfl
@[simp] theorem State.setI_muted (s : State) (val : Nat) : (s.setI val).muted = s.muted := rfl
@[simp] theorem State.setI_active (s : State) (val : Nat) : (s.setI val).active = s.active := rfl
@[simp] theorem State.setI_chan (s : State) (val : Nat) : (s.setI val).chan = s.chan := rfl
@[simp] theorem State.setI_lastV (s : State) (val : Nat) : (s.setI val).lastV = s.lastV := rfl
@[simp] theorem State.setI_lastC (s : State) (val : Nat) : (s.setI val).lastC = s.lastC := rfl
@[simp] theorem State.setI_inputs (s : State) (val : Nat) : (s.setI val).inputs = s.inputs := rfl
@[simp] theorem State.setI_outputs (s : State) (val : Nat) : (s.setI val).outputs = s.outputs := rfl
@[simp] theorem State.setI_keypad (s : State) (val : Nat) : (s.setI val).keypad = s.keypad := rfl
@[simp] theorem State.setI_draws (s : State) (val : Nat) : (s.setI val).draws = s.draws := rfl

/-! ## `setPc` -/

@[simp] theorem State.setPc_mem (s : State) (target : Word) : (s.setPc target).mem = s.mem := rfl
@[simp] theorem State.setPc_v (s : State) (target : Word) : (s.setPc target).v = s.v := rfl
@[simp] theorem State.setPc_i (s : State) (target : Word) : (s.setPc target).i = s.i := rfl
@[simp] theorem State.setPc_pc (s : State) (target : Word) : (s.setPc target).pc = target := rfl
@[simp] theorem State.setPc_stack (s : State) (target : Word) : (s.setPc target).stack = s.stack := rfl
@[simp] theorem State.setPc_sp (s : State) (target : Word) : (s.setPc target).sp = s.sp := rfl
@[simp] theorem State.setPc_disp (s : State) (target : Word) : (s.setPc target).disp = s.disp := rfl
@[simp] theorem State.setPc_wait (s : State) (target : Word) : (s.setPc target).wait = s.wait := rfl
@[simp] theorem State.setPc_wreg (s : State) (target : Word) : (s.setPc target).wreg = s.wreg := rfl
@[simp] theorem State.setPc_loaded (s : State) (target : Word) : (s.setPc target).loaded = s.loaded := rfl
@[simp] theorem State.setPc_opc (s : State) (target : Word) : (s.setPc target).opc = s.opc := rfl
@[simp] theorem State.setPc_dt (s : State) (target : Word) : (s.setPc target).dt = s.dt := rfl
@[simp] theorem State.setPc_st (s : State) (target : Word) : (s.setPc target).st = s.st := rfl
@[simp] theorem State.setPc_acc (s : State) (target : Word) : (s.setPc target).acc = s.acc := rfl
@[simp] theorem State.setPc_cyc (s : State) (target : Word) : (s.setPc target).cyc = s.cyc := rfl
@[simp] theorem State.setPc_hl (s : State) (target : Word) : (s.setPc target).hl = s.hl := rfl
@[simp] theorem State.setPc_guide (s : State) (target : Word) : (s.setPc target).guide = s.guide := rfl
@[simp] theorem State.setPc_muted (s : State) (target : Word) : (s.setPc target).muted = s.muted := rfl
@[simp] theorem State.setPc_active (s : State) (target : Word) : (s.setPc target).active = s.active := rfl
@[simp] theorem State.setPc_chan (s : State) (target : Word) : (s.setPc target).chan = s.chan := rfl
@[simp] theorem State.setPc_lastV (s : State) (target : Word) : (s.setPc target).lastV = s.lastV := rfl
@[simp] theorem State.setPc_lastC (s : State) (target : Word) : (s.setPc target).lastC = s.lastC := rfl
@[simp] theorem State.setPc_inputs (s : State) (target : Word) : (s.setPc target).inputs = s.inputs := rfl
@[simp] theorem State.setPc_outputs (s : State) (target : Word) : (s.setPc target).outputs = s.outputs := rfl
@[simp] theorem State.setPc_keypad (s : State) (target : Word) : (s.setPc target).keypad = s.keypad := rfl
@[simp] theorem State.setPc_draws (s : State) (target : Word) : (s.setPc target).draws = s.draws := rfl

/-! ## `emit` -/

@[simp] theorem State.emit_mem (s : State) (o : Output) : (s.emit o).mem = s.mem := rfl
@[simp] theorem State.emit_v (s : State) (o : Output) : (s.emit o).v = s.v := rfl
@[simp] theorem State.emit_i (s : State) (o : Output) : (s.emit o).i = s.i := rfl
@[simp] theorem State.emit_pc (s : State) (o : Output) : (s.emit o).pc = s.pc := rfl
@[simp] theorem State.emit_stack (s : State) (o : Output) : (s.emit o).stack = s.stack := rfl
@[simp] theorem State.emit_sp (s : State) (o : Output) : (s.emit o).sp = s.sp := rfl
@[simp] theorem State.emit_disp (s : State) (o : Output) : (s.emit o).disp = s.disp := rfl
@[simp] theorem State.emit_wait (s : State) (o : Output) : (s.emit o).wait = s.wait := rfl
@[simp] theorem State.emit_wreg (s : State) (o : Output) : (s.emit o).wreg = s.wreg := rfl
@[simp] theorem State.emit_loaded (s : State) (o : Output) : (s.emit o).loaded = s.loaded := rfl
@[simp] theorem State.emit_opc (s : State) (o : Output) : (s.emit o).opc = s.opc := rfl
@[simp] theorem State.emit_dt (s : State) (o : Output) : (s.emit o).dt = s.dt := rfl
@[simp] theorem State.emit_st (s : State) (o : Output) : (s.emit o).st = s.st := rfl
@[simp] theorem State.emit_acc (s : State) (o : Output) : (s.emit o).acc = s.acc := rfl
@[simp] theorem State.emit_cyc (s : State) (o : Output) : (s.emit o).cyc = s.cyc := rfl
@[simp] theorem State.emit_hl (s : State) (o : Output) : (s.emit o).hl = s.hl := rfl
@[simp] theorem State.emit_guide (s : State) (o : Output) : (s.emit o).guide = s.guide := rfl
@[simp] theorem State.emit_muted (s : State) (o : Output) : (s.emit o).muted = s.muted := rfl
@[simp] theorem State.emit_active (s : State) (o : Output) : (s.emit o).active = s.active := rfl
@[simp] theorem State.emit_chan (s : State) (o : Output) : (s.emit o).chan = s.chan := rfl
@[simp] theorem State.emit_lastV (s : State) (o : Output) : (s.emit o).lastV = s.lastV := rfl
@[simp] theorem State.emit_lastC (s : State) (o : Output) : (s.emit o).lastC = s.lastC := rfl
@[simp] theorem State.emit_inputs (s : State) (o : Output) : (s.emit o).inputs = s.inputs := rfl
@[simp] theorem State.emit_outputs (s : State) (o : Output) : (s.emit o).outputs = s.outputs ++ [o] := rfl
@[simp] theorem State.emit_keypad (s : State) (o : Output) : (s.emit o).keypad = s.keypad := rfl
@[simp] theorem State.emit_draws (s : State) (o : Output) : (s.emit o).draws = s.draws := rfl

/-! ## `fetched` -/

@[simp] theorem State.fetched_mem (s : State) (keypad : Word) : (s.fetched keypad).mem = s.mem := rfl
@[simp] theorem State.fetched_v (s : State) (keypad : Word) : (s.fetched keypad).v = s.v := rfl
@[simp] theorem State.fetched_i (s : State) (keypad : Word) : (s.fetched keypad).i = s.i := rfl
@[simp] theorem State.fetched_pc (s : State) (keypad : Word) : (s.fetched keypad).pc = BitVec.ofNat 16 (s.fetchAddress + 2) := rfl
@[simp] theorem State.fetched_stack (s : State) (keypad : Word) : (s.fetched keypad).stack = s.stack := rfl
@[simp] theorem State.fetched_sp (s : State) (keypad : Word) : (s.fetched keypad).sp = s.sp := rfl
@[simp] theorem State.fetched_disp (s : State) (keypad : Word) : (s.fetched keypad).disp = s.disp := rfl
@[simp] theorem State.fetched_wait (s : State) (keypad : Word) : (s.fetched keypad).wait = s.wait := rfl
@[simp] theorem State.fetched_wreg (s : State) (keypad : Word) : (s.fetched keypad).wreg = s.wreg := rfl
@[simp] theorem State.fetched_loaded (s : State) (keypad : Word) : (s.fetched keypad).loaded = s.loaded := rfl
@[simp] theorem State.fetched_opc (s : State) (keypad : Word) : (s.fetched keypad).opc = s.fetchWord := rfl
@[simp] theorem State.fetched_dt (s : State) (keypad : Word) : (s.fetched keypad).dt = s.dt := rfl
@[simp] theorem State.fetched_st (s : State) (keypad : Word) : (s.fetched keypad).st = s.st := rfl
@[simp] theorem State.fetched_acc (s : State) (keypad : Word) : (s.fetched keypad).acc = s.acc := rfl
@[simp] theorem State.fetched_cyc (s : State) (keypad : Word) : (s.fetched keypad).cyc = s.cyc := rfl
@[simp] theorem State.fetched_hl (s : State) (keypad : Word) : (s.fetched keypad).hl = s.hl := rfl
@[simp] theorem State.fetched_guide (s : State) (keypad : Word) : (s.fetched keypad).guide = s.guide := rfl
@[simp] theorem State.fetched_muted (s : State) (keypad : Word) : (s.fetched keypad).muted = s.muted := rfl
@[simp] theorem State.fetched_active (s : State) (keypad : Word) : (s.fetched keypad).active = s.active := rfl
@[simp] theorem State.fetched_chan (s : State) (keypad : Word) : (s.fetched keypad).chan = s.chan := rfl
@[simp] theorem State.fetched_lastV (s : State) (keypad : Word) : (s.fetched keypad).lastV = s.lastV := rfl
@[simp] theorem State.fetched_lastC (s : State) (keypad : Word) : (s.fetched keypad).lastC = s.lastC := rfl
@[simp] theorem State.fetched_inputs (s : State) (keypad : Word) : (s.fetched keypad).inputs = s.inputs := rfl
@[simp] theorem State.fetched_outputs (s : State) (keypad : Word) : (s.fetched keypad).outputs = s.outputs := rfl
@[simp] theorem State.fetched_keypad (s : State) (keypad : Word) : (s.fetched keypad).keypad = keypad := rfl
@[simp] theorem State.fetched_draws (s : State) (keypad : Word) : (s.fetched keypad).draws = s.draws := rfl

/-! ## `skipIf` -/

@[simp] theorem State.skipIf_mem (s : State) (cond : Bool) : (s.skipIf cond).mem = s.mem := by cases cond <;> rfl
@[simp] theorem State.skipIf_v (s : State) (cond : Bool) : (s.skipIf cond).v = s.v := by cases cond <;> rfl
@[simp] theorem State.skipIf_i (s : State) (cond : Bool) : (s.skipIf cond).i = s.i := by cases cond <;> rfl
@[simp] theorem State.skipIf_pc (s : State) (cond : Bool) : (s.skipIf cond).pc = if cond then s.pc + 2#16 else s.pc := by
  cases cond <;> rfl
@[simp] theorem State.skipIf_stack (s : State) (cond : Bool) : (s.skipIf cond).stack = s.stack := by cases cond <;> rfl
@[simp] theorem State.skipIf_sp (s : State) (cond : Bool) : (s.skipIf cond).sp = s.sp := by cases cond <;> rfl
@[simp] theorem State.skipIf_disp (s : State) (cond : Bool) : (s.skipIf cond).disp = s.disp := by cases cond <;> rfl
@[simp] theorem State.skipIf_wait (s : State) (cond : Bool) : (s.skipIf cond).wait = s.wait := by cases cond <;> rfl
@[simp] theorem State.skipIf_wreg (s : State) (cond : Bool) : (s.skipIf cond).wreg = s.wreg := by cases cond <;> rfl
@[simp] theorem State.skipIf_loaded (s : State) (cond : Bool) : (s.skipIf cond).loaded = s.loaded := by cases cond <;> rfl
@[simp] theorem State.skipIf_opc (s : State) (cond : Bool) : (s.skipIf cond).opc = s.opc := by cases cond <;> rfl
@[simp] theorem State.skipIf_dt (s : State) (cond : Bool) : (s.skipIf cond).dt = s.dt := by cases cond <;> rfl
@[simp] theorem State.skipIf_st (s : State) (cond : Bool) : (s.skipIf cond).st = s.st := by cases cond <;> rfl
@[simp] theorem State.skipIf_acc (s : State) (cond : Bool) : (s.skipIf cond).acc = s.acc := by cases cond <;> rfl
@[simp] theorem State.skipIf_cyc (s : State) (cond : Bool) : (s.skipIf cond).cyc = s.cyc := by cases cond <;> rfl
@[simp] theorem State.skipIf_hl (s : State) (cond : Bool) : (s.skipIf cond).hl = s.hl := by cases cond <;> rfl
@[simp] theorem State.skipIf_guide (s : State) (cond : Bool) : (s.skipIf cond).guide = s.guide := by cases cond <;> rfl
@[simp] theorem State.skipIf_muted (s : State) (cond : Bool) : (s.skipIf cond).muted = s.muted := by cases cond <;> rfl
@[simp] theorem State.skipIf_active (s : State) (cond : Bool) : (s.skipIf cond).active = s.active := by cases cond <;> rfl
@[simp] theorem State.skipIf_chan (s : State) (cond : Bool) : (s.skipIf cond).chan = s.chan := by cases cond <;> rfl
@[simp] theorem State.skipIf_lastV (s : State) (cond : Bool) : (s.skipIf cond).lastV = s.lastV := by cases cond <;> rfl
@[simp] theorem State.skipIf_lastC (s : State) (cond : Bool) : (s.skipIf cond).lastC = s.lastC := by cases cond <;> rfl
@[simp] theorem State.skipIf_inputs (s : State) (cond : Bool) : (s.skipIf cond).inputs = s.inputs := by cases cond <;> rfl
@[simp] theorem State.skipIf_outputs (s : State) (cond : Bool) : (s.skipIf cond).outputs = s.outputs := by cases cond <;> rfl
@[simp] theorem State.skipIf_keypad (s : State) (cond : Bool) : (s.skipIf cond).keypad = s.keypad := by cases cond <;> rfl
@[simp] theorem State.skipIf_draws (s : State) (cond : Bool) : (s.skipIf cond).draws = s.draws := by cases cond <;> rfl

/-! ## `storeByte` -/

@[simp] theorem State.storeByte_mem (s : State) (a : Nat) (val : Byte) :
    (s.storeByte a val).mem = if a < 4096 then s.mem.write a val else s.mem := by
  unfold State.storeByte; split <;> rfl
@[simp] theorem State.storeByte_v (s : State) (a : Nat) (val : Byte) : (s.storeByte a val).v = s.v := by
  unfold State.storeByte; split <;> rfl
@[simp] theorem State.storeByte_i (s : State) (a : Nat) (val : Byte) : (s.storeByte a val).i = s.i := by
  unfold State.storeByte; split <;> rfl
@[simp] theorem State.storeByte_pc (s : State) (a : Nat) (val : Byte) : (s.storeByte a val).pc = s.pc := by
  unfold State.storeByte; split <;> rfl
@[simp] theorem State.storeByte_stack (s : State) (a : Nat) (val : Byte) : (s.storeByte a val).stack = s.stack := by
  unfold State.storeByte; split <;> rfl
@[simp] theorem State.storeByte_sp (s : State) (a : Nat) (val : Byte) : (s.storeByte a val).sp = s.sp := by
  unfold State.storeByte; split <;> rfl
@[simp] theorem State.storeByte_disp (s : State) (a : Nat) (val : Byte) : (s.storeByte a val).disp = s.disp := by
  unfold State.storeByte; split <;> rfl
@[simp] theorem State.storeByte_wait (s : State) (a : Nat) (val : Byte) : (s.storeByte a val).wait = s.wait := by
  unfold State.storeByte; split <;> rfl
@[simp] theorem State.storeByte_wreg (s : State) (a : Nat) (val : Byte) : (s.storeByte a val).wreg = s.wreg := by
  unfold State.storeByte; split <;> rfl
@[simp] theorem State.storeByte_loaded (s : State) (a : Nat) (val : Byte) : (s.storeByte a val).loaded = s.loaded := by
  unfold State.storeByte; split <;> rfl
@[simp] theorem State.storeByte_opc (s : State) (a : Nat) (val : Byte) : (s.storeByte a val).opc = s.opc := by
  unfold State.storeByte; split <;> rfl
@[simp] theorem State.storeByte_dt (s : State) (a : Nat) (val : Byte) : (s.storeByte a val).dt = s.dt := by
  unfold State.storeByte; split <;> rfl
@[simp] theorem State.storeByte_st (s : State) (a : Nat) (val : Byte) : (s.storeByte a val).st = s.st := by
  unfold State.storeByte; split <;> rfl
@[simp] theorem State.storeByte_acc (s : State) (a : Nat) (val : Byte) : (s.storeByte a val).acc = s.acc := by
  unfold State.storeByte; split <;> rfl
@[simp] theorem State.storeByte_cyc (s : State) (a : Nat) (val : Byte) : (s.storeByte a val).cyc = s.cyc := by
  unfold State.storeByte; split <;> rfl
@[simp] theorem State.storeByte_hl (s : State) (a : Nat) (val : Byte) : (s.storeByte a val).hl = s.hl := by
  unfold State.storeByte; split <;> rfl
@[simp] theorem State.storeByte_guide (s : State) (a : Nat) (val : Byte) : (s.storeByte a val).guide = s.guide := by
  unfold State.storeByte; split <;> rfl
@[simp] theorem State.storeByte_muted (s : State) (a : Nat) (val : Byte) : (s.storeByte a val).muted = s.muted := by
  unfold State.storeByte; split <;> rfl
@[simp] theorem State.storeByte_active (s : State) (a : Nat) (val : Byte) : (s.storeByte a val).active = s.active := by
  unfold State.storeByte; split <;> rfl
@[simp] theorem State.storeByte_chan (s : State) (a : Nat) (val : Byte) : (s.storeByte a val).chan = s.chan := by
  unfold State.storeByte; split <;> rfl
@[simp] theorem State.storeByte_lastV (s : State) (a : Nat) (val : Byte) : (s.storeByte a val).lastV = s.lastV := by
  unfold State.storeByte; split <;> rfl
@[simp] theorem State.storeByte_lastC (s : State) (a : Nat) (val : Byte) : (s.storeByte a val).lastC = s.lastC := by
  unfold State.storeByte; split <;> rfl
@[simp] theorem State.storeByte_inputs (s : State) (a : Nat) (val : Byte) : (s.storeByte a val).inputs = s.inputs := by
  unfold State.storeByte; split <;> rfl
@[simp] theorem State.storeByte_outputs (s : State) (a : Nat) (val : Byte) : (s.storeByte a val).outputs = s.outputs := by
  unfold State.storeByte; split <;> rfl
@[simp] theorem State.storeByte_keypad (s : State) (a : Nat) (val : Byte) : (s.storeByte a val).keypad = s.keypad := by
  unfold State.storeByte; split <;> rfl
@[simp] theorem State.storeByte_draws (s : State) (a : Nat) (val : Byte) : (s.storeByte a val).draws = s.draws := by
  unfold State.storeByte; split <;> rfl

/-! ## `stageDec` -/

@[simp] theorem State.stageDec_mem (s : State) : s.stageDec.mem = s.mem := rfl
@[simp] theorem State.stageDec_v (s : State) : s.stageDec.v = s.v := rfl
@[simp] theorem State.stageDec_i (s : State) : s.stageDec.i = s.i := rfl
@[simp] theorem State.stageDec_pc (s : State) : s.stageDec.pc = s.pc := rfl
@[simp] theorem State.stageDec_stack (s : State) : s.stageDec.stack = s.stack := rfl
@[simp] theorem State.stageDec_sp (s : State) : s.stageDec.sp = s.sp := rfl
@[simp] theorem State.stageDec_disp (s : State) : s.stageDec.disp = s.disp := rfl
@[simp] theorem State.stageDec_wait (s : State) : s.stageDec.wait = s.wait := rfl
@[simp] theorem State.stageDec_wreg (s : State) : s.stageDec.wreg = s.wreg := rfl
@[simp] theorem State.stageDec_loaded (s : State) : s.stageDec.loaded = s.loaded := rfl
@[simp] theorem State.stageDec_opc (s : State) : s.stageDec.opc = s.opc := rfl
@[simp] theorem State.stageDec_dt (s : State) : s.stageDec.dt = s.dt := rfl
@[simp] theorem State.stageDec_st (s : State) : s.stageDec.st = s.st := rfl
@[simp] theorem State.stageDec_acc (s : State) : s.stageDec.acc = s.acc := rfl
@[simp] theorem State.stageDec_cyc (s : State) : s.stageDec.cyc = s.cyc := rfl
@[simp] theorem State.stageDec_hl (s : State) : s.stageDec.hl = s.hl := rfl
@[simp] theorem State.stageDec_guide (s : State) : s.stageDec.guide = s.guide := rfl
@[simp] theorem State.stageDec_muted (s : State) : s.stageDec.muted = s.muted := rfl
@[simp] theorem State.stageDec_active (s : State) : s.stageDec.active = s.active := rfl
@[simp] theorem State.stageDec_chan (s : State) : s.stageDec.chan = s.chan := rfl
@[simp] theorem State.stageDec_lastV (s : State) : s.stageDec.lastV = s.lastV := rfl
@[simp] theorem State.stageDec_lastC (s : State) : s.stageDec.lastC = s.lastC := rfl
@[simp] theorem State.stageDec_inputs (s : State) : s.stageDec.inputs = s.inputs := rfl
@[simp] theorem State.stageDec_outputs (s : State) : s.stageDec.outputs = s.outputs ++ [.stagedDec s.v s.i s.pc s.sp s.opc] := rfl
@[simp] theorem State.stageDec_keypad (s : State) : s.stageDec.keypad = s.keypad := rfl
@[simp] theorem State.stageDec_draws (s : State) : s.stageDec.draws = s.draws := rfl

end Sys2Proof.Machine
end

