-- ==== Sys2Proof/Laws/Beep.lean ====
section
/-! SUPPORT. Everything that BEEP's two events can do, said once (R260, R262): which fields they write, and what they emit. -/

namespace Sys2Proof.Machine

/-! ## The fields of a channel state (R44) -/

@[simp] theorem Channel.frequency_muted : Channel.muted.frequency = Config.beepFreq := rfl
@[simp] theorem Channel.frequency_inactive : Channel.inactive.frequency = Config.beepFreq := rfl
@[simp] theorem Channel.frequency_active (freq stop : Nat) : (Channel.active freq stop).frequency = freq := rfl
@[simp] theorem Channel.nextStopTick_muted : Channel.muted.nextStopTick = none := rfl
@[simp] theorem Channel.nextStopTick_inactive : Channel.inactive.nextStopTick = none := rfl
@[simp] theorem Channel.nextStopTick_active (freq stop : Nat) :
    (Channel.active freq stop).nextStopTick = some stop := rfl

/-- A channel state has a `nextStopTick` exactly when it is an `Active`. -/
theorem Channel.nextStopTick_eq_some {chan : Channel} {stop : Nat} :
    chan.nextStopTick = some stop ↔ ∃ freq, chan = .active freq stop := by
  cases chan <;> simp

/-! ## The two events -/

/-- `ACTIVE` after `updateSoundTimer(v, c)`: the beep is on exactly while unmuted with a nonzero sound timer. -/
def beepActive (muted : Bool) (val : Byte) : Bool := !muted && decide (0 < val.toNat)

/-- `CHAN` after `updateSoundTimer(v, c)`. -/
def beepChan (muted active : Bool) (chan : Channel) (val : Byte) (c : Nat) : Channel :=
  if muted then .muted
  else if 0 < val.toNat ∧ active = false then .active Config.beepFreq (c + val.toNat)
  else if val = 0#8 ∧ active = true then .inactive
  else chan

/-- What `updateSoundTimer(v, c)` emits. -/
def beepOuts (muted active : Bool) (val : Byte) (c : Nat) : List Output :=
  if muted then (if active then [.stopBeep] else []) ++ [.channelState .muted]
  else if 0 < val.toNat ∧ active = false then
    [.startBeep Config.beepFreq, .channelState (.active Config.beepFreq (c + val.toNat))]
  else if val = 0#8 ∧ active = true then [.stopBeep, .channelState .inactive]
  else []

/-- Everything that `updateSoundTimer` does: it remembers the notification, and writes `ACTIVE`, `CHAN` and the output
sequence (R260). -/
theorem updateSoundTimer_eq (s : State) (val : Byte) (c : Nat) :
    updateSoundTimer val c s =
      { s with
        lastV := val, lastC := c, active := beepActive s.muted val, chan := beepChan s.muted s.active s.chan val c
        outputs := s.outputs ++ beepOuts s.muted s.active val c } := by
  by_cases hm : s.muted = true
  · cases ha : s.active <;>
      simp [updateSoundTimer, beepActive, beepChan, beepOuts, hm, ha, State.stopIfActive, State.publishChannel,
        State.emit]
  · have hm' : s.muted = false := by simpa using hm
    by_cases hv : 0 < val.toNat
    · have hne : val ≠ 0#8 := by rintro rfl; simp at hv
      cases ha : s.active
      · simp [updateSoundTimer, beepActive, beepChan, beepOuts, hm', hv, ha, State.startUntil, State.publishChannel,
          State.emit]
      · simp [updateSoundTimer, beepActive, beepChan, beepOuts, hm', ha, hv, hne]
    · have h0 : val = 0#8 := BitVec.eq_of_toNat_eq (by simpa using hv)
      subst h0
      cases ha : s.active
      · simp [updateSoundTimer, beepActive, beepChan, beepOuts, hm', ha]
      · simp [updateSoundTimer, beepActive, beepChan, beepOuts, hm', ha, State.stopIfActive, State.publishChannel,
          State.emit]

/-- `toggleMute` writes the flag, republishes the channel, and otherwise does one of four things (R262). -/
theorem toggleMute_cases (s : State) (flag : Bool) :
    ∃ act chan outs,
      toggleMute flag s =
        { s with muted := flag, active := act, chan := chan, outputs := s.outputs ++ outs ++ [.channelState chan] } ∧
      ((flag = true ∧ act = false ∧ chan = .muted ∧ outs = if s.active then [.stopBeep] else []) ∨
       (flag = false ∧ 0 < s.lastV.toNat ∧ s.active = false ∧ act = true ∧
          chan = .active Config.beepFreq (s.lastC + s.lastV.toNat) ∧ outs = [.startBeep Config.beepFreq]) ∨
       (flag = false ∧ s.active = true ∧ act = true ∧ chan = s.chan ∧ outs = []) ∨
       (flag = false ∧ s.lastV = 0 ∧ s.active = false ∧ act = false ∧ chan = .inactive ∧ outs = [])) := by
  cases flag
  · by_cases ha : s.active = true
    · refine ⟨s.active, s.chan, [], ?_, .inr (.inr (.inl ⟨rfl, ha, ha, rfl, rfl⟩))⟩
      simp [toggleMute, ha, State.publishChannel, State.emit]
    · have ha' : s.active = false := by simpa using ha
      by_cases hv : 0 < s.lastV.toNat
      · refine ⟨true, .active Config.beepFreq (s.lastC + s.lastV.toNat), [.startBeep Config.beepFreq], ?_,
          .inr (.inl ⟨rfl, hv, ha', rfl, rfl, rfl⟩)⟩
        simp [toggleMute, hv, ha', State.startUntil, State.publishChannel, State.emit]
      · have h0 : s.lastV = 0#8 := BitVec.eq_of_toNat_eq (by simpa using hv)
        refine ⟨s.active, .inactive, [], ?_, .inr (.inr (.inr ⟨rfl, h0, ha', ha', rfl, rfl⟩))⟩
        simp [toggleMute, h0, ha', State.publishChannel, State.emit]
  · refine ⟨false, .muted, if s.active then [.stopBeep] else [], ?_, .inl ⟨rfl, rfl, rfl, rfl⟩⟩
    cases ha : s.active <;>
      simp [toggleMute, State.stopIfActive, ha, State.publishChannel, State.emit]

end Sys2Proof.Machine
end

