-- ==== Sys2Proof/Laws/Decode.lean ====
section
/-! SUPPORT. The laws of opcode fields: a packed word has the fields it was packed from, a word is packed from its fields, and
what a mask of the opcode map compares (R14, R81, R83). -/

namespace Sys2Proof

/-! ## Packing and fields -/

@[simp] theorem fieldHi_packAddr (hi : Nibble) (nnn : Addr) : fieldHi (packAddr hi nnn) = hi := by
  ext i hi'; interval_cases i <;> simp [fieldHi, packAddr]
@[simp] theorem fieldNnn_packAddr (hi : Nibble) (nnn : Addr) : fieldNnn (packAddr hi nnn) = nnn := by
  ext i hi'; interval_cases i <;> simp [fieldNnn, packAddr]
@[simp] theorem fieldHi_packByte (hi : Nibble) (x : Reg) (kk : Byte) : fieldHi (packByte hi x kk) = hi := by
  ext i hi'; interval_cases i <;> simp [fieldHi, packByte]
@[simp] theorem fieldX_packByte (hi : Nibble) (x : Reg) (kk : Byte) : fieldX (packByte hi x kk) = x := by
  ext i hi'; interval_cases i <;> simp [fieldX, packByte]
@[simp] theorem fieldKk_packByte (hi : Nibble) (x : Reg) (kk : Byte) : fieldKk (packByte hi x kk) = kk := by
  ext i hi'; interval_cases i <;> simp [fieldKk, packByte]
@[simp] theorem fieldHi_packNibble (hi : Nibble) (x y : Reg) (n : Nibble) : fieldHi (packNibble hi x y n) = hi := by
  ext i hi'; interval_cases i <;> simp [fieldHi, packNibble]
@[simp] theorem fieldX_packNibble (hi : Nibble) (x y : Reg) (n : Nibble) : fieldX (packNibble hi x y n) = x := by
  ext i hi'; interval_cases i <;> simp [fieldX, packNibble]
@[simp] theorem fieldY_packNibble (hi : Nibble) (x y : Reg) (n : Nibble) : fieldY (packNibble hi x y n) = y := by
  ext i hi'; interval_cases i <;> simp [fieldY, packNibble]
@[simp] theorem fieldN_packNibble (hi : Nibble) (x y : Reg) (n : Nibble) : fieldN (packNibble hi x y n) = n := by
  ext i hi'; interval_cases i <;> simp [fieldN, packNibble]
theorem packAddr_fields (w : Word) : packAddr (fieldHi w) (fieldNnn w) = w := by
  ext i hi'; interval_cases i <;> simp [packAddr, fieldHi, fieldNnn]
theorem packByte_fields (w : Word) : packByte (fieldHi w) (fieldX w) (fieldKk w) = w := by
  ext i hi'; interval_cases i <;> simp [packByte, fieldHi, fieldX, fieldKk]
theorem packNibble_fields (w : Word) : packNibble (fieldHi w) (fieldX w) (fieldY w) (fieldN w) = w := by
  ext i hi'; interval_cases i <;> simp [packNibble, fieldHi, fieldX, fieldY, fieldN]
theorem opcodeOf_bytesOf (w : Word) : opcodeOf (w.extractLsb' 8 8) (w.extractLsb' 0 8) = w := by
  ext i hi'; interval_cases i <;> simp [opcodeOf]

/-- The opcode of two bytes as a number: the first byte is the high one (R61). -/
theorem opcodeOf_toNat (a b : Byte) : (opcodeOf a b).toNat = 256 * a.toNat + b.toNat := by
  have ha := a.isLt
  have hb := b.isLt
  rw [opcodeOf, BitVec.toNat_or, BitVec.toNat_shiftLeft, BitVec.toNat_setWidth, BitVec.toNat_setWidth,
    Nat.mod_eq_of_lt (by omega : a.toNat < 2 ^ 16), Nat.mod_eq_of_lt (by omega : b.toNat < 2 ^ 16),
    Nat.shiftLeft_eq, Nat.mod_eq_of_lt (by omega), ← Nat.shiftLeft_eq, ← Nat.shiftLeft_add_eq_or_of_lt hb,
    Nat.shiftLeft_eq]
  omega

/-! ## The masks of the opcode map -/

/-- Mask 0xF000 compares the major opcode. -/
theorem and_F000 (w : Word) (p : Nibble) : w &&& 0xF000#16 = packNibble p 0 0 0 ↔ fieldHi w = p := by
  constructor
  · intro h
    have h' := congrArg fieldHi h
    rw [fieldHi_packNibble] at h'
    rw [← h']
    ext i hi; interval_cases i <;> simp [fieldHi]
  · intro h
    subst h
    ext i hi; interval_cases i <;> simp [packNibble, fieldHi]

/-- Mask 0xF00F compares the major opcode and the low nibble. -/
theorem and_F00F (w : Word) (p q : Nibble) :
    w &&& 0xF00F#16 = packNibble p 0 0 q ↔ fieldHi w = p ∧ fieldN w = q := by
  constructor
  · intro h
    have h1 := congrArg fieldHi h
    have h2 := congrArg fieldN h
    rw [fieldHi_packNibble] at h1
    rw [fieldN_packNibble] at h2
    rw [← h1, ← h2]
    constructor
    · ext i hi; interval_cases i <;> simp [fieldHi]
    · ext i hi; interval_cases i <;> simp [fieldN]
  · rintro ⟨rfl, rfl⟩
    ext i hi; interval_cases i <;> simp [packNibble, fieldHi, fieldN]

/-- Mask 0xF0FF compares the major opcode and the low byte. -/
theorem and_F0FF (w : Word) (p : Nibble) (kk : Byte) :
    w &&& 0xF0FF#16 = packByte p 0 kk ↔ fieldHi w = p ∧ fieldKk w = kk := by
  constructor
  · intro h
    have h1 := congrArg fieldHi h
    have h2 := congrArg fieldKk h
    rw [fieldHi_packByte] at h1
    rw [fieldKk_packByte] at h2
    rw [← h1, ← h2]
    constructor
    · ext i hi; interval_cases i <;> simp [fieldHi]
    · ext i hi; interval_cases i <;> simp [fieldKk]
  · rintro ⟨rfl, rfl⟩
    ext i hi; interval_cases i <;> simp [packByte, fieldHi, fieldKk]

end Sys2Proof
end

