-- ==== Sys2Proof/Laws/Display.lean ====
section
/-! SUPPORT. What drawing a sprite does to the cells and to the collision flag, said once for a cell, a row and a sprite
(R191). -/

namespace Sys2Proof.Machine

/-- Two positions are one cell exactly when they agree modulo the width and the height. -/
theorem cellIndex_eq {px py qx qy : Nat} :
    cellIndex px py = cellIndex qx qy ↔ px % 64 = qx % 64 ∧ py % 32 = qy % 32 := by
  unfold cellIndex
  rw [Fin.mk.injEq]
  omega

/-- The cell in a place after one cell has been flipped. -/
theorem cellAt_flipAt (d : Cells) (k j : Fin 2048) :
    cellAt (flipAt d j) k = (if k = j then !cellAt d k else cellAt d k) := by
  unfold cellAt flipAt
  by_cases hrow : j.val / 64 = k.val / 64
  · simp only [hrow, Vector.getElem_set_self, BitVec.getLsbD_xor, BitVec.getLsbD_twoPow]
    by_cases hcol : j.val % 64 = k.val % 64
    · have h : k = j := Fin.ext (by omega)
      have hlt : j.val % 64 < 64 := by omega
      simp [h, hlt]
    · have h : k ≠ j := fun e => hcol (by rw [e])
      simp [h, hcol]
  · have h : k ≠ j := fun e => hrow (by rw [e])
    simp [h, hrow]

/-- Two displays with the same cells are the same display. -/
theorem cells_ext {d e : Cells} (h : ∀ k, cellAt d k = cellAt e k) : d = e := by
  apply Vector.ext
  intro row hrow
  apply BitVec.eq_of_getLsbD_eq
  intro col hcol
  have hk := h ⟨row * 64 + col, by omega⟩
  have hdiv : (row * 64 + col) / 64 = row := by omega
  have hmod : (row * 64 + col) % 64 = col := by omega
  simpa only [cellAt, hdiv, hmod] using hk

theorem flipCell_cell (px py : Nat) (d : Cells × Bool) (k : Fin 2048) :
    cellAt (flipCell px py d).1 k = (if k = cellIndex px py then !cellAt d.1 k else cellAt d.1 k) :=
  cellAt_flipAt d.1 k (cellIndex px py)

theorem flipCell_hit (px py : Nat) (d : Cells × Bool) :
    (flipCell px py d).2 = (d.2 || cellAt d.1 (cellIndex px py)) := rfl

/-- A set pixel of one sprite row, among its first `m` columns, lies on the cell. -/
abbrev RowCovers (cx py : Nat) (b : Byte) (m : Nat) (k : Fin 2048) : Prop :=
  ∃ col, col < m ∧ spritePixel b col = true ∧ cellIndex (cx + col) py = k

/-- The display after the first `m` columns of a row. -/
def rowPrefix (cx py : Nat) (b : Byte) (d : Cells × Bool) : Nat → Cells × Bool
  | 0 => d
  | m + 1 =>
    if spritePixel b m then flipCell (cx + m) py (rowPrefix cx py b d m) else rowPrefix cx py b d m

theorem rowPrefix_foldl (cx py : Nat) (b : Byte) (d : Cells × Bool) (m : Nat) :
    (List.range m).foldl (fun d col => if spritePixel b col then flipCell (cx + col) py d else d) d =
      rowPrefix cx py b d m := by
  induction m with
  | zero => rfl
  | succ m ih => rw [List.range_succ, List.foldl_append, ih]; rfl

/-- Drawing a row is drawing its eight columns. -/
theorem drawRow_eq (cx py : Nat) (b : Byte) (d : Cells × Bool) :
    drawRow cx py b d = rowPrefix cx py b d 8 := rowPrefix_foldl cx py b d 8

/-- Drawing the first `m` columns of a row: the covered cells flip, and a covered cell that was set is a hit. -/
theorem rowPrefix_covers (cx py : Nat) (b : Byte) (d : Cells × Bool) (m : Nat) (hm : m ≤ 8) :
    (∀ k : Fin 2048, (RowCovers cx py b m k → cellAt (rowPrefix cx py b d m).1 k = !cellAt d.1 k) ∧
      (¬ RowCovers cx py b m k → cellAt (rowPrefix cx py b d m).1 k = cellAt d.1 k)) ∧
    ((rowPrefix cx py b d m).2 = true ↔ d.2 = true ∨ ∃ k : Fin 2048, RowCovers cx py b m k ∧ cellAt d.1 k = true) := by
  induction m with
  | zero => simp [RowCovers, rowPrefix]
  | succ m ih =>
    obtain ⟨ih1, ih2⟩ := ih (by omega)
    have hnew : ∀ k, RowCovers cx py b (m + 1) k ↔
        RowCovers cx py b m k ∨ (spritePixel b m = true ∧ cellIndex (cx + m) py = k) := by
      intro k
      constructor
      · rintro ⟨col, hc, hp, hk⟩
        rcases Nat.lt_succ_iff_lt_or_eq.mp hc with h | h
        · exact .inl ⟨col, h, hp, hk⟩
        · subst h; exact .inr ⟨hp, hk⟩
      · rintro (⟨col, hc, hp, hk⟩ | ⟨hp, hk⟩)
        · exact ⟨col, by omega, hp, hk⟩
        · exact ⟨m, by omega, hp, hk⟩
    by_cases hp : spritePixel b m = true
    · have hfresh : ¬ RowCovers cx py b m (cellIndex (cx + m) py) := by
        rintro ⟨col, hc, _, hk⟩
        have := (cellIndex_eq.mp hk).1
        omega
      have hval := (ih1 (cellIndex (cx + m) py)).2 hfresh
      have hs : rowPrefix cx py b d (m + 1) = flipCell (cx + m) py (rowPrefix cx py b d m) := by
        rw [rowPrefix, if_pos hp]
      rw [hs]
      constructor
      · intro k
        rw [hnew, flipCell_cell]
        by_cases hk : k = cellIndex (cx + m) py
        · subst hk
          simp [hp, hval]
        · have hk' : ¬ cellIndex (cx + m) py = k := fun h => hk h.symm
          simp only [hk, hk', and_false, or_false, if_false]
          exact ih1 k
      · rw [flipCell_hit, Bool.or_eq_true, ih2, hval]
        constructor
        · rintro ((h | ⟨k, hk, hd⟩) | h)
          · exact .inl h
          · exact .inr ⟨k, (hnew k).mpr (.inl hk), hd⟩
          · exact .inr ⟨_, (hnew _).mpr (.inr ⟨hp, rfl⟩), h⟩
        · rintro (h | ⟨k, hk, hd⟩)
          · exact .inl (.inl h)
          · rcases (hnew k).mp hk with h | ⟨_, h⟩
            · exact .inl (.inr ⟨k, h, hd⟩)
            · subst h; exact .inr hd
    · have hs : rowPrefix cx py b d (m + 1) = rowPrefix cx py b d m := by rw [rowPrefix, if_neg hp]
      rw [hs]
      simp only [hnew, hp, Bool.false_eq_true, false_and, or_false]
      exact ⟨ih1, ih2⟩

/-- A set pixel of the sprite, in one of `count` rows from row `row` that memory holds, lies on the cell. -/
abbrev RowsCover (mem : Memory) (base : Addr) (cx cy row count : Nat) (k : Fin 2048) : Prop :=
  ∃ j, row ≤ j ∧ j < row + count ∧ base.toNat + j < 4096 ∧ RowCovers cx (cy + j) (mem.read (base.toNat + j)) 8 k

/-- Drawing a sprite: the covered cells flip, each once, and a covered cell that was set is a hit. -/
theorem drawRows_covers (mem : Memory) (base : Addr) (cx cy row count : Nat) (hc : count ≤ 32)
    (d : Cells × Bool) :
    let e := drawRows mem base cx cy row count d
    (∀ k : Fin 2048, (RowsCover mem base cx cy row count k → cellAt e.1 k = !cellAt d.1 k) ∧
      (¬ RowsCover mem base cx cy row count k → cellAt e.1 k = cellAt d.1 k)) ∧
    (e.2 = true ↔ d.2 = true ∨ ∃ k : Fin 2048, RowsCover mem base cx cy row count k ∧ cellAt d.1 k = true) := by
  induction count generalizing row d with
  | zero =>
    have hno : ∀ k, ¬ RowsCover mem base cx cy row 0 k := by rintro k ⟨j, h1, h2, _⟩; omega
    simp [drawRows, hno]
  | succ count ih =>
    rw [drawRows]
    unfold indexed
    split
    · next ha =>
      obtain ⟨ih1, ih2⟩ := ih (row + 1) (by omega) (drawRow cx (cy + row) (mem.read (base.toNat + row)) d)
      obtain ⟨r1, r2⟩ := rowPrefix_covers cx (cy + row) (mem.read (base.toNat + row)) d 8 (Nat.le_refl 8)
      rw [← drawRow_eq] at r1 r2
      have hnew : ∀ k, RowsCover mem base cx cy row (count + 1) k ↔
          RowCovers cx (cy + row) (mem.read (base.toNat + row)) 8 k ∨
            RowsCover mem base cx cy (row + 1) count k := by
        intro k
        constructor
        · rintro ⟨j, h1, h2, h3, h4⟩
          rcases Nat.eq_or_lt_of_le h1 with h | h
          · subst h; exact .inl h4
          · exact .inr ⟨j, h, by omega, h3, h4⟩
        · rintro (h | ⟨j, h1, h2, h3, h4⟩)
          · exact ⟨row, Nat.le_refl _, by omega, ha, h⟩
          · exact ⟨j, by omega, by omega, h3, h4⟩
      have hdisj : ∀ k, RowCovers cx (cy + row) (mem.read (base.toNat + row)) 8 k →
          ¬ RowsCover mem base cx cy (row + 1) count k := by
        rintro k ⟨c1, _, _, hk⟩ ⟨j, h1, h2, _, c2, _, _, hk2⟩
        have := (cellIndex_eq.mp (hk.trans hk2.symm)).2
        omega
      refine ⟨fun k => ?_, ?_⟩
      · rw [hnew]
        constructor
        · rintro (h | h)
          · rw [(ih1 k).2 (hdisj k h), (r1 k).1 h]
          · rw [(ih1 k).1 h, (r1 k).2 (fun h' => hdisj k h' h)]
        · intro h
          rw [not_or] at h
          rw [(ih1 k).2 h.2, (r1 k).2 h.1]
      · rw [ih2, r2]
        constructor
        · rintro ((h | ⟨k, hk, hd⟩) | ⟨k, hk, hd⟩)
          · exact .inl h
          · exact .inr ⟨k, (hnew k).mpr (.inl hk), hd⟩
          · rw [(r1 k).2 (fun h' => hdisj k h' hk)] at hd
            exact .inr ⟨k, (hnew k).mpr (.inr hk), hd⟩
        · rintro (h | ⟨k, hk, hd⟩)
          · exact .inl (.inl h)
          · rcases (hnew k).mp hk with h | h
            · exact .inl (.inr ⟨k, h, hd⟩)
            · exact .inr ⟨k, h, by rw [(r1 k).2 (fun h' => hdisj k h' h)]; exact hd⟩
    · next ha =>
      have hno : ∀ k, ¬ RowsCover mem base cx cy row (count + 1) k := by
        rintro k ⟨j, h1, _, h3, _⟩; omega
      simp [hno]

end Sys2Proof.Machine
end

