-- ==== Sys2Proof/Laws/Step.lean ====
section
/-! SUPPORT. What a cycle and a step can do, said once (R6, R101, R104). -/

namespace Sys2Proof.Machine

/-- A cycle that has a next state changes nothing, or fetches, executes and stages (R101). -/
theorem cycle_cases {keypad : Word} {s t : State} (h : cycle keypad s = .next t) :
    (t = s ∧ (s.loaded = false ∨ s.wait = true)) ∨
    (s.loaded = true ∧ s.wait = false ∧ ∃ u, execOpcode (s.fetched keypad) = .next u ∧ t = u.stageDec) := by
  unfold cycle at h
  split at h
  · next hl =>
    cases h
    exact .inl ⟨rfl, .inl hl⟩
  · next hl =>
    split at h
    · next hw =>
      cases h
      exact .inl ⟨rfl, .inr hw⟩
    · next hw =>
      cases hu : execOpcode (s.fetched keypad) with
      | next u =>
        rw [hu] at h
        simp only [mapNext, Host.Outcome.next.injEq] at h
        exact .inr ⟨by simpa using hl, by simpa using hw, u, rfl, h.symm⟩
      | fault r => cases r
      | refused r =>
        rw [hu] at h
        cases h

/-- A step that has a next state had nothing to do, or performed the next input (R6). -/
theorem step_cases {s t : State} (h : step s = .next t) :
    (s.inputs = [] ∧ t = s) ∨
    ∃ e rest, s.inputs = e :: rest ∧ perform e { s with inputs := rest } = .next t := by
  unfold step performNext at h
  split at h
  · next hi =>
    cases h
    exact .inl ⟨hi, rfl⟩
  · next e rest hi => exact .inr ⟨e, rest, hi, h⟩

/-- The step of a known next input is that input's event. -/
theorem step_of_inputs {s : State} {e : Event} {rest : List Event} (h : s.inputs = e :: rest) :
    step s = perform e { s with inputs := rest } := by
  simp [step, performNext, h]

end Sys2Proof.Machine
end

