-- ==== Sys2Proof/Laws/Memory.lean ====
section
/-! SUPPORT. The laws of memory: what a read gives after a write, and that every memory operation keeps the canonical form
(R28, R69). -/

namespace Sys2Proof.Machine

/-- A list whose addresses are all at least `lo` says nothing about an address below `lo`. -/
theorem Memory.read_below {lo a : Nat} {m : Memory} (h : Memory.wfAbove lo m = true) (ha : a < lo) :
    m.read a = unlisted a := by
  induction m generalizing lo with
  | nil => rfl
  | cons c m ih =>
    obtain ⟨b, u⟩ := c
    simp only [Memory.wfAbove, Bool.and_eq_true, decide_eq_true_eq] at h
    have hne : a ≠ b := by omega
    simp only [Memory.read, hne, if_false]
    exact ih h.2 (by omega)

theorem Memory.wfAbove_mono {lo lo' : Nat} {m : Memory} (h : Memory.wfAbove lo m = true) (hl : lo' ≤ lo) :
    Memory.wfAbove lo' m = true := by
  cases m with
  | nil => rfl
  | cons c m =>
    simp only [Memory.wfAbove, Bool.and_eq_true, decide_eq_true_eq] at h ⊢
    exact ⟨⟨⟨by omega, h.1.1.2⟩, h.1.2⟩, h.2⟩

/-- Writing at an address of at least `lo` keeps the canonical form above `lo`. -/
theorem Memory.write_wfAbove {lo a : Nat} {m : Memory} {val : Byte} (h : Memory.wfAbove lo m = true) (hlo : lo ≤ a)
    (ha : a < 4096) : Memory.wfAbove lo (m.write a val) = true := by
  induction m generalizing lo with
  | nil =>
    unfold Memory.write
    split
    · rfl
    · simp_all [Memory.wfAbove]
  | cons c m ih =>
    obtain ⟨b, u⟩ := c
    have h' := h
    simp only [Memory.wfAbove, Bool.and_eq_true, decide_eq_true_eq] at h
    obtain ⟨⟨⟨h1, h2⟩, h3⟩, h4⟩ := h
    unfold Memory.write
    split
    · split
      · exact h'
      · next hlt hv =>
        simp only [Memory.wfAbove, Bool.and_eq_true, decide_eq_true_eq]
        exact ⟨⟨⟨hlo, ha⟩, hv⟩, ⟨⟨by omega, h2⟩, h3⟩, h4⟩
    · split
      · next hab =>
        subst hab
        split
        · exact Memory.wfAbove_mono h4 (by omega)
        · next hv => simp [Memory.wfAbove, hlo, ha, hv, h4]
      · simp only [Memory.wfAbove, Bool.and_eq_true, decide_eq_true_eq]
        exact ⟨⟨⟨h1, h2⟩, h3⟩, ih h4 (by omega)⟩

theorem Memory.write_wf {m : Memory} {a : Nat} {val : Byte} (h : m.wf = true) (ha : a < 4096) :
    (m.write a val).wf = true :=
  Memory.write_wfAbove h (Nat.zero_le a) ha

/-- A read gives the byte written last at its address, and a write leaves every other address alone. -/
theorem Memory.read_write {lo a b : Nat} {m : Memory} {val : Byte} (h : Memory.wfAbove lo m = true) :
    (m.write a val).read b = if b = a then val else m.read b := by
  induction m generalizing lo with
  | nil =>
    by_cases hv : val = unlisted a <;> by_cases hb : b = a <;> simp_all [Memory.write, Memory.read]
  | cons c m ih =>
    obtain ⟨d, u⟩ := c
    simp only [Memory.wfAbove, Bool.and_eq_true, decide_eq_true_eq] at h
    obtain ⟨⟨⟨h1, h2⟩, h3⟩, h4⟩ := h
    unfold Memory.write
    split
    · next hlt =>
      have hread : Memory.read ((d, u) :: m) a = unlisted a := by
        have hne : a ≠ d := by omega
        simp only [Memory.read, hne, if_false]
        exact Memory.read_below h4 (by omega)
      split
      · next hv =>
        by_cases hb : b = a
        · subst hb; simp [hread, hv]
        · simp [hb]
      · by_cases hb : b = a <;> simp [Memory.read, hb]
    · split
      · next hlt hab =>
        subst hab
        split
        · next hv =>
          by_cases hb : b = a
          · subst hb; simp [hv, Memory.read_below h4 (Nat.lt_succ_self b)]
          · simp [Memory.read, hb]
        · by_cases hb : b = a <;> simp [Memory.read, hb]
      · next hlt hab =>
        by_cases hbd : b = d
        · subst hbd
          have : b ≠ a := fun e => hab e.symm
          simp [Memory.read, this]
        · simp only [Memory.read, hbd, if_false]
          exact ih h4

/-- Reading a byte after storing one, in a canonical memory (R69). -/
theorem State.readByte_storeByte {s : State} (h : s.mem.wf = true) {a : Nat} (ha : a < 4096) (b : Nat) (val : Byte) :
    (s.storeByte a val).readByte b = if b = a then val else s.readByte b := by
  simp only [State.readByte, State.storeByte_mem, ha, if_true]
  exact Memory.read_write h

/-- A store past the end of memory changes nothing (R64). -/
theorem State.storeByte_dropped (s : State) {a : Nat} (ha : ¬ a < 4096) (val : Byte) : s.storeByte a val = s := by
  simp [State.storeByte, ha]

/-- Every store keeps the canonical form. -/
theorem State.storeByte_wf {s : State} (h : s.mem.wf = true) (a : Nat) (val : Byte) :
    (s.storeByte a val).mem.wf = true := by
  rw [State.storeByte_mem]
  split
  · next ha => exact Memory.write_wf h ha
  · exact h

/-- Storing several bytes changes no field but memory. -/
theorem State.storeBytes_only_mem (s : State) (a : Nat) (bytes : List Byte) :
    s.storeBytes a bytes = { s with mem := (s.storeBytes a bytes).mem } := by
  induction bytes generalizing s a with
  | nil => rfl
  | cons val rest ih =>
    rw [State.storeBytes, ih]
    unfold State.storeByte
    split <;> rfl

theorem State.storeBytes_wf {s : State} (h : s.mem.wf = true) (a : Nat) (bytes : List Byte) :
    (s.storeBytes a bytes).mem.wf = true := by
  induction bytes generalizing s a with
  | nil => exact h
  | cons val rest ih => exact ih (State.storeByte_wf h a val) (a + 1)

/-- What a byte reads as after several bytes have been stored at ascending addresses. -/
theorem State.readByte_storeBytes {s : State} (h : s.mem.wf = true) (a b : Nat) (bytes : List Byte) :
    (s.storeBytes a bytes).readByte b =
      if a ≤ b ∧ b < a + bytes.length ∧ b < 4096 then bytes.getD (b - a) 0#8 else s.readByte b := by
  induction bytes generalizing s a with
  | nil =>
    rw [if_neg (by simp only [List.length_nil]; omega)]
    rfl
  | cons val rest ih =>
    rw [State.storeBytes, ih (State.storeByte_wf h a val)]
    simp only [List.length_cons]
    by_cases ha : a < 4096
    · rw [State.readByte_storeByte h ha]
      rcases Nat.lt_trichotomy b a with hlt | heq | hgt
      · rw [if_neg (by omega), if_neg (by omega), if_neg (by omega)]
      · subst heq
        rw [if_neg (by omega), if_pos rfl, if_pos (by omega)]
        simp
      · by_cases hr : b < a + (rest.length + 1) ∧ b < 4096
        · have hs : b - a = b - (a + 1) + 1 := by omega
          rw [if_pos (by omega), if_pos (by omega), hs]
          simp
        · rw [if_neg (by omega), if_neg (by omega), if_neg (by omega)]
    · rw [State.storeByte_dropped s ha, if_neg (by omega), if_neg (by omega)]

/-- Memory at reset is canonical. -/
theorem reset_memory_wf : State.reset.mem.wf = true := rfl

end Sys2Proof.Machine
end

