-- ==== Sys2Proof/Laws/Registers.lean ====
section
/-! SUPPORT. The laws of the general registers: reading a register after a write, and after the writes of a result and a
flag. -/

namespace Sys2Proof.Machine

/-- Two registers share a place only if they are the same register. -/
theorem reg_toNat_inj {x y : Reg} : x.toNat = y.toNat ↔ x = y := BitVec.toNat_inj

theorem State.reg_setReg (s : State) (x r : Reg) (val : Byte) :
    (s.setReg x val).reg r = if r = x then val else s.reg r := by
  by_cases h : r = x
  · subst h; simp [State.reg]
  · have h' : x.toNat ≠ r.toNat := fun e => h (reg_toNat_inj.mp e.symm)
    simp [State.reg, h, h']

@[simp] theorem State.reg_setReg_self (s : State) (x : Reg) (val : Byte) : (s.setReg x val).reg x = val := by
  simp [State.reg_setReg]

theorem State.reg_setReg_ne (s : State) {x r : Reg} (val : Byte) (h : r ≠ x) :
    (s.setReg x val).reg r = s.reg r := by
  simp [State.reg_setReg, h]

/-- Registers are read from the field `v` alone. -/
theorem State.reg_congr {s t : State} (h : t.v = s.v) (r : Reg) : t.reg r = s.reg r := by
  simp [State.reg, h]

/-- Memory bytes are read from the field `mem` alone. -/
theorem State.readByte_congr {s t : State} (h : t.mem = s.mem) (a : Nat) : t.readByte a = s.readByte a := by
  simp [State.readByte, h]

@[simp] theorem State.setReg_readByte (s : State) (x : Reg) (val : Byte) (a : Nat) :
    (s.setReg x val).readByte a = s.readByte a := rfl

/-- The flag is written after the result, so it stays also when the result goes to `VF` (R141). -/
theorem State.setResult_flag (s : State) (x : Reg) (result flag : Byte) :
    (s.setResult x result flag).reg regF = flag := by
  simp [State.setResult]

theorem State.setResult_result (s : State) {x : Reg} (result flag : Byte) (h : x ≠ regF) :
    (s.setResult x result flag).reg x = result := by
  simp [State.setResult, State.reg_setReg, h]

theorem State.setResult_regs (s : State) (x : Reg) (result flag : Byte) :
    RegsUnchangedBut x regF s (s.setResult x result flag) := by
  intro r hx hf
  simp [State.setResult, State.reg_setReg, hx, hf]

theorem State.setReg_regs (s : State) (x : Reg) (val : Byte) : RegsUnchangedBut x x s (s.setReg x val) := by
  intro r hx _
  exact s.reg_setReg_ne val hx

theorem State.setReg_frame (s : State) (x : Reg) (val : Byte) : UnchangedBut [.v] s (s.setReg x val) := by
  intro f hf
  cases f <;> first | rfl | (intro _; rfl) | exact absurd (by simp) hf

theorem State.setResult_frame (s : State) (x : Reg) (result flag : Byte) :
    UnchangedBut [.v] s (s.setResult x result flag) := by
  intro f hf
  cases f <;> first | rfl | (intro _; rfl) | exact absurd (by simp) hf

end Sys2Proof.Machine
end

