-- ==== Sys2Proof/Laws/Transfer.lean ====
section
/-! SUPPORT. What the loops of `Fx33`, `Fx55` and `Fx65` do, each said once (R173 to R175). -/

namespace Sys2Proof.Machine

/-- The loop counter names the register of the same number. -/
theorem loopReg_toNat {k : Nat} (h : k < 16) : (loopReg k).toNat = k := by
  simp [loopReg]; omega

theorem loopReg_of_toNat (r : Reg) : loopReg r.toNat = r := by
  simp [loopReg]

/-- The store loop changes no field but memory. -/
theorem storeRegs_only_mem (base : Addr) (k count : Nat) (s : State) :
    storeRegs base k count s = { s with mem := (storeRegs base k count s).mem } := by
  induction count generalizing k s with
  | zero => rfl
  | succ count ih =>
    rw [storeRegs]
    split
    · rw [ih]
      unfold State.storeByte
      split <;> rfl
    · rfl

/-- The store loop keeps the canonical form. -/
theorem storeRegs_wf (base : Addr) (k count : Nat) {s : State} (h : s.mem.wf = true) :
    (storeRegs base k count s).mem.wf = true := by
  induction count generalizing k s with
  | zero => exact h
  | succ count ih =>
    rw [storeRegs]
    split
    · exact ih (k + 1) (State.storeByte_wf h _ _)
    · exact h

/-- What a byte reads as after the store loop: register `V[j]` at `base + j`, as far as memory reaches. -/
theorem readByte_storeRegs (base : Addr) (k count : Nat) {s : State} (h : s.mem.wf = true) (b : Nat) :
    (storeRegs base k count s).readByte b =
      if base.toNat + k ≤ b ∧ b < base.toNat + k + count ∧ b < 4096 then s.reg (loopReg (b - base.toNat))
      else s.readByte b := by
  induction count generalizing k s with
  | zero => rw [if_neg (by omega)]; rfl
  | succ count ih =>
    rw [storeRegs]
    unfold indexed
    split
    · next ha =>
      rw [ih (k + 1) (State.storeByte_wf h _ _), State.readByte_storeByte h ha]
      have hreg : ∀ r, (s.storeByte (base.toNat + k) (s.reg (loopReg k))).reg r = s.reg r :=
        fun r => State.reg_congr (State.storeByte_v ..) r
      rw [hreg]
      by_cases hb : b = base.toNat + k
      · have hs : b - base.toNat = k := by omega
        rw [if_neg (by omega), if_pos hb, if_pos (by omega), hs]
      · by_cases hr : base.toNat + k ≤ b ∧ b < base.toNat + k + (count + 1) ∧ b < 4096
        · rw [if_pos (by omega), if_pos hr]
        · rw [if_neg (by omega), if_neg hb, if_neg hr]
    · rw [if_neg (by omega)]

/-- The load loop changes no field but the registers. -/
theorem loadRegs_only_v (base : Addr) (k count : Nat) (s : State) :
    loadRegs base k count s = { s with v := (loadRegs base k count s).v } := by
  induction count generalizing k s with
  | zero => rfl
  | succ count ih =>
    rw [loadRegs]
    split
    · rw [ih]
      rfl
    · rfl

/-- What a register holds after the load loop: the byte at `base + r`, as far as memory reaches. -/
theorem reg_loadRegs (base : Addr) (k count : Nat) (hk : k + count ≤ 16) (s : State) (r : Reg) :
    (loadRegs base k count s).reg r =
      if k ≤ r.toNat ∧ r.toNat < k + count ∧ base.toNat + r.toNat < 4096 then s.readByte (base.toNat + r.toNat)
      else s.reg r := by
  induction count generalizing k s with
  | zero => rw [if_neg (by omega)]; rfl
  | succ count ih =>
    rw [loadRegs]
    unfold indexed
    split
    · next ha =>
      rw [ih (k + 1) (by omega), State.setReg_readByte, State.reg_setReg]
      have hl : (loopReg k).toNat = k := loopReg_toNat (by omega)
      by_cases hr : r = loopReg k
      · have hrk : r.toNat = k := by rw [hr, hl]
        rw [if_neg (by omega), if_pos hr, if_pos (by omega), hrk]
      · have hrk : r.toNat ≠ k := fun e => hr (reg_toNat_inj.mp (by rw [hl, e]))
        by_cases hc : k ≤ r.toNat ∧ r.toNat < k + (count + 1) ∧ base.toNat + r.toNat < 4096
        · rw [if_pos (by omega), if_pos hc]
        · rw [if_neg (by omega), if_neg hr, if_neg hc]
    · rw [if_neg (by omega)]

end Sys2Proof.Machine
end

