-- ==== Sys2Proof/Laws/Exec.lean ====
section
/-! SUPPORT. What every instruction and every cycle does alike: it has a next state, it keeps the state that no instruction
reaches, and it does not look at the pending inputs (R106, R221, R227). -/

namespace Sys2Proof.Machine

/-- Every instruction has a next state (R221). -/
theorem exec_has_next (i : Instr) (s : State) : ∃ t, exec i s = .next t := by
  cases i <;> exact ⟨_, rfl⟩

theorem execOpcode_has_next (s : State) : ∃ t, execOpcode s = .next t := by
  unfold execOpcode
  split
  · exact exec_has_next _ _
  · exact ⟨_, rfl⟩

/-- Every cycle has a next state (R106). -/
theorem cycle_has_next (keypad : Word) (s : State) : ∃ t, cycle keypad s = .next t := by
  unfold cycle
  split
  · exact ⟨_, rfl⟩
  · split
    · exact ⟨_, rfl⟩
    · obtain ⟨t, ht⟩ := execOpcode_has_next (s.fetched keypad)
      rw [ht]
      exact ⟨_, rfl⟩

/-- The state that no instruction reaches: it belongs to the fetch, to `loadRom`, to the ticks or to the host (R227). -/
structure SameBeyondProgram (s t : State) : Prop where
  loaded : t.loaded = s.loaded
  opc : t.opc = s.opc
  acc : t.acc = s.acc
  cyc : t.cyc = s.cyc
  hl : t.hl = s.hl
  guide : t.guide = s.guide
  muted : t.muted = s.muted
  inputs : t.inputs = s.inputs
  keypad : t.keypad = s.keypad

theorem SameBeyondProgram.skipIf (s : State) (cond : Bool) : SameBeyondProgram s (s.skipIf cond) := by
  cases cond <;> exact ⟨rfl, rfl, rfl, rfl, rfl, rfl, rfl, rfl, rfl⟩

/-- No instruction reaches that state. -/
theorem exec_sameBeyondProgram {i : Instr} {s t : State} (h : exec i s = .next t) : SameBeyondProgram s t := by
  cases i with
  | ret =>
    cases h
    unfold State.returnFrom
    split <;> exact ⟨rfl, rfl, rfl, rfl, rfl, rfl, rfl, rfl, rfl⟩
  | call nnn =>
    cases h
    unfold State.callTo
    split <;> exact ⟨rfl, rfl, rfl, rfl, rfl, rfl, rfl, rfl, rfl⟩
  | ldB x =>
    cases h
    rw [State.storeBytes_only_mem]
    exact ⟨rfl, rfl, rfl, rfl, rfl, rfl, rfl, rfl, rfl⟩
  | ldMemVx x =>
    cases h
    rw [storeRegs_only_mem]
    exact ⟨rfl, rfl, rfl, rfl, rfl, rfl, rfl, rfl, rfl⟩
  | ldVxMem x =>
    cases h
    rw [loadRegs_only_v]
    exact ⟨rfl, rfl, rfl, rfl, rfl, rfl, rfl, rfl, rfl⟩
  | ldStVx x =>
    cases h
    unfold setSoundTimer soundChanged
    rw [updateSoundTimer_eq]
    exact ⟨rfl, rfl, rfl, rfl, rfl, rfl, rfl, rfl, rfl⟩
  | seByte x kk => cases h; exact .skipIf s _
  | sneByte x kk => cases h; exact .skipIf s _
  | seReg x y => cases h; exact .skipIf s _
  | sneReg x y => cases h; exact .skipIf s _
  | skp x => cases h; exact .skipIf s _
  | sknp x => cases h; exact .skipIf s _
  | _ =>
    cases h
    exact ⟨rfl, rfl, rfl, rfl, rfl, rfl, rfl, rfl, rfl⟩

end Sys2Proof.Machine
end

