-- ==== Sys2Proof/Laws/Keyboard.lean ====
section
/-! SUPPORT. What the search of the key table finds (R253). -/

namespace Sys2Proof.Machine

/-- What the search finds has the code. -/
theorem lookupAmong_code {key : Vector String 16} {code : String} {l : List (Fin 16)} {k : Fin 16}
    (h : lookupAmong key code l = some k) : foldCode key[k] = foldCode code := by
  induction l with
  | nil => cases h
  | cons a rest ih =>
    rw [lookupAmong] at h
    split at h
    · next he =>
      cases h
      exact he
    · exact ih h

/-- In an injective key map the search finds a key's own code at that key. -/
theorem lookupAmong_some_of_mem (key : Vector String 16) (inj : FoldInjective key) (k : Fin 16) (l : List (Fin 16))
    (h : k ∈ l) : lookupAmong key key[k] l = some k := by
  induction l with
  | nil => cases h
  | cons a rest ih =>
    rw [lookupAmong]
    by_cases he : foldCode key[a] = foldCode key[k]
    · rw [if_pos he, inj a k he]
    · rw [if_neg he]
      rcases List.mem_cons.mp h with rfl | h'
      · exact absurd rfl he
      · exact ih h'

/-- The search finds nothing for a code whose length no key has. -/
theorem lookupAmong_none_of_length (key : Vector String 16) (code : String) (l : List (Fin 16))
    (h : ∀ k : Fin 16, key[k].toList.length < code.toList.length) : lookupAmong key code l = none := by
  induction l with
  | nil => rfl
  | cons a rest ih =>
    rw [lookupAmong, if_neg, ih]
    intro he
    have hl := congrArg List.length he
    simp only [foldCode, List.length_map] at hl
    have := h a
    omega

end Sys2Proof.Machine
end

