-- ==== Sys2Proof/Laws/Observe.lean ====
section
/-! SUPPORT. The views of the output sequence, taken one piece at a time: the snapshot aggregate (R45, R70) and the audio
requests (R261, R264). -/

namespace Sys2Proof.Machine

theorem snapshotAfter_append (outs more : List Output) :
    snapshotAfter (outs ++ more) = more.foldl Snapshot.stage (snapshotAfter outs) := by
  simp [snapshotAfter]

theorem audioAfter_append (outs more : List Output) :
    audioAfter (outs ++ more) = more.foldl audioStep (audioAfter outs) := by
  simp [audioAfter]

/-- Two starts with no stop between them break the alternation, and nothing mends it. -/
theorem audioStep_none (o : Output) : audioStep none o = none := by
  cases o <;> rfl

end Sys2Proof.Machine
end

