-- ==== Sys2Proof/Laws/PerInstr.lean ====
section
/-! SUPPORT. A statement about every instruction, one lemma for each constructor: its opcode lies in a row of the opcode map
that reads the instruction back (R81 to R83). -/

namespace Sys2Proof.Laws.PatternOfEncode

open Sys2Proof

/-- Some row of the opcode map has the pattern of the instruction's opcode under its mask, and reads its operands back. -/
def Statement (i : Instr) : Prop :=
  ∃ row ∈ opcodeMap, encode i &&& row.mask = row.pattern ∧ row.build (encode i) = i

theorem cls : Statement .cls := ⟨⟨0xFFFF#16, 0x00E0#16, fun _ => .cls⟩, by simp [opcodeMap, rowsSysToAdd], rfl, rfl⟩

theorem ret : Statement .ret := ⟨⟨0xFFFF#16, 0x00EE#16, fun _ => .ret⟩, by simp [opcodeMap, rowsSysToAdd], rfl, rfl⟩

theorem sys (nnn : Addr) : Statement (.sys nnn) :=
  ⟨⟨0xF000#16, 0x0000#16, fun w => .sys (fieldNnn w)⟩, by simp [opcodeMap, rowsSysToAdd],
    (and_F000 _ 0x0#4).mpr (by simp [encode]), by simp [encode]⟩

theorem jp (nnn : Addr) : Statement (.jp nnn) :=
  ⟨⟨0xF000#16, 0x1000#16, fun w => .jp (fieldNnn w)⟩, by simp [opcodeMap, rowsSysToAdd],
    (and_F000 _ 0x1#4).mpr (by simp [encode]), by simp [encode]⟩

theorem call (nnn : Addr) : Statement (.call nnn) :=
  ⟨⟨0xF000#16, 0x2000#16, fun w => .call (fieldNnn w)⟩, by simp [opcodeMap, rowsSysToAdd],
    (and_F000 _ 0x2#4).mpr (by simp [encode]), by simp [encode]⟩

theorem seByte (x : Reg) (kk : Byte) : Statement (.seByte x kk) :=
  ⟨⟨0xF000#16, 0x3000#16, fun w => .seByte (fieldX w) (fieldKk w)⟩, by simp [opcodeMap, rowsSysToAdd],
    (and_F000 _ 0x3#4).mpr (by simp [encode]), by simp [encode]⟩

theorem sneByte (x : Reg) (kk : Byte) : Statement (.sneByte x kk) :=
  ⟨⟨0xF000#16, 0x4000#16, fun w => .sneByte (fieldX w) (fieldKk w)⟩, by simp [opcodeMap, rowsSysToAdd],
    (and_F000 _ 0x4#4).mpr (by simp [encode]), by simp [encode]⟩

theorem seReg (x y : Reg) : Statement (.seReg x y) :=
  ⟨⟨0xF00F#16, 0x5000#16, fun w => .seReg (fieldX w) (fieldY w)⟩, by simp [opcodeMap, rowsSysToAdd],
    (and_F00F _ 0x5#4 0x0#4).mpr (by simp [encode]), by simp [encode]⟩

theorem ldByte (x : Reg) (kk : Byte) : Statement (.ldByte x kk) :=
  ⟨⟨0xF000#16, 0x6000#16, fun w => .ldByte (fieldX w) (fieldKk w)⟩, by simp [opcodeMap, rowsSysToAdd],
    (and_F000 _ 0x6#4).mpr (by simp [encode]), by simp [encode]⟩

theorem addByte (x : Reg) (kk : Byte) : Statement (.addByte x kk) :=
  ⟨⟨0xF000#16, 0x7000#16, fun w => .addByte (fieldX w) (fieldKk w)⟩, by simp [opcodeMap, rowsSysToAdd],
    (and_F000 _ 0x7#4).mpr (by simp [encode]), by simp [encode]⟩

theorem ldReg (x y : Reg) : Statement (.ldReg x y) :=
  ⟨⟨0xF00F#16, 0x8000#16, fun w => .ldReg (fieldX w) (fieldY w)⟩, by simp [opcodeMap, rowsAlu],
    (and_F00F _ 0x8#4 0x0#4).mpr (by simp [encode]), by simp [encode]⟩

theorem orReg (x y : Reg) : Statement (.orReg x y) :=
  ⟨⟨0xF00F#16, 0x8001#16, fun w => .orReg (fieldX w) (fieldY w)⟩, by simp [opcodeMap, rowsAlu],
    (and_F00F _ 0x8#4 0x1#4).mpr (by simp [encode]), by simp [encode]⟩

theorem andReg (x y : Reg) : Statement (.andReg x y) :=
  ⟨⟨0xF00F#16, 0x8002#16, fun w => .andReg (fieldX w) (fieldY w)⟩, by simp [opcodeMap, rowsAlu],
    (and_F00F _ 0x8#4 0x2#4).mpr (by simp [encode]), by simp [encode]⟩

theorem xorReg (x y : Reg) : Statement (.xorReg x y) :=
  ⟨⟨0xF00F#16, 0x8003#16, fun w => .xorReg (fieldX w) (fieldY w)⟩, by simp [opcodeMap, rowsAlu],
    (and_F00F _ 0x8#4 0x3#4).mpr (by simp [encode]), by simp [encode]⟩

theorem addReg (x y : Reg) : Statement (.addReg x y) :=
  ⟨⟨0xF00F#16, 0x8004#16, fun w => .addReg (fieldX w) (fieldY w)⟩, by simp [opcodeMap, rowsAlu],
    (and_F00F _ 0x8#4 0x4#4).mpr (by simp [encode]), by simp [encode]⟩

theorem subReg (x y : Reg) : Statement (.subReg x y) :=
  ⟨⟨0xF00F#16, 0x8005#16, fun w => .subReg (fieldX w) (fieldY w)⟩, by simp [opcodeMap, rowsAlu],
    (and_F00F _ 0x8#4 0x5#4).mpr (by simp [encode]), by simp [encode]⟩

theorem shr (x y : Reg) : Statement (.shr x y) :=
  ⟨⟨0xF00F#16, 0x8006#16, fun w => .shr (fieldX w) (fieldY w)⟩, by simp [opcodeMap, rowsAlu],
    (and_F00F _ 0x8#4 0x6#4).mpr (by simp [encode]), by simp [encode]⟩

theorem subnReg (x y : Reg) : Statement (.subnReg x y) :=
  ⟨⟨0xF00F#16, 0x8007#16, fun w => .subnReg (fieldX w) (fieldY w)⟩, by simp [opcodeMap, rowsAlu],
    (and_F00F _ 0x8#4 0x7#4).mpr (by simp [encode]), by simp [encode]⟩

theorem shl (x y : Reg) : Statement (.shl x y) :=
  ⟨⟨0xF00F#16, 0x800E#16, fun w => .shl (fieldX w) (fieldY w)⟩, by simp [opcodeMap, rowsAlu],
    (and_F00F _ 0x8#4 0xe#4).mpr (by simp [encode]), by simp [encode]⟩

theorem sneReg (x y : Reg) : Statement (.sneReg x y) :=
  ⟨⟨0xF00F#16, 0x9000#16, fun w => .sneReg (fieldX w) (fieldY w)⟩, by simp [opcodeMap, rowsIndexToKey],
    (and_F00F _ 0x9#4 0x0#4).mpr (by simp [encode]), by simp [encode]⟩

theorem ldI (nnn : Addr) : Statement (.ldI nnn) :=
  ⟨⟨0xF000#16, 0xA000#16, fun w => .ldI (fieldNnn w)⟩, by simp [opcodeMap, rowsIndexToKey],
    (and_F000 _ 0xa#4).mpr (by simp [encode]), by simp [encode]⟩

theorem jpV0 (nnn : Addr) : Statement (.jpV0 nnn) :=
  ⟨⟨0xF000#16, 0xB000#16, fun w => .jpV0 (fieldNnn w)⟩, by simp [opcodeMap, rowsIndexToKey],
    (and_F000 _ 0xb#4).mpr (by simp [encode]), by simp [encode]⟩

theorem rnd (x : Reg) (kk : Byte) : Statement (.rnd x kk) :=
  ⟨⟨0xF000#16, 0xC000#16, fun w => .rnd (fieldX w) (fieldKk w)⟩, by simp [opcodeMap, rowsIndexToKey],
    (and_F000 _ 0xc#4).mpr (by simp [encode]), by simp [encode]⟩

theorem drw (x y : Reg) (n : Nibble) : Statement (.drw x y n) :=
  ⟨⟨0xF000#16, 0xD000#16, fun w => .drw (fieldX w) (fieldY w) (fieldN w)⟩, by simp [opcodeMap, rowsIndexToKey],
    (and_F000 _ 0xd#4).mpr (by simp [encode]), by simp [encode]⟩

theorem skp (x : Reg) : Statement (.skp x) :=
  ⟨⟨0xF0FF#16, 0xE09E#16, fun w => .skp (fieldX w)⟩, by simp [opcodeMap, rowsIndexToKey],
    (and_F0FF _ 0xe#4 0x9e#8).mpr (by simp [encode]), by simp [encode]⟩

theorem sknp (x : Reg) : Statement (.sknp x) :=
  ⟨⟨0xF0FF#16, 0xE0A1#16, fun w => .sknp (fieldX w)⟩, by simp [opcodeMap, rowsIndexToKey],
    (and_F0FF _ 0xe#4 0xa1#8).mpr (by simp [encode]), by simp [encode]⟩

theorem ldVxDt (x : Reg) : Statement (.ldVxDt x) :=
  ⟨⟨0xF0FF#16, 0xF007#16, fun w => .ldVxDt (fieldX w)⟩, by simp [opcodeMap, rowsMisc],
    (and_F0FF _ 0xf#4 0x7#8).mpr (by simp [encode]), by simp [encode]⟩

theorem ldVxK (x : Reg) : Statement (.ldVxK x) :=
  ⟨⟨0xF0FF#16, 0xF00A#16, fun w => .ldVxK (fieldX w)⟩, by simp [opcodeMap, rowsMisc],
    (and_F0FF _ 0xf#4 0xa#8).mpr (by simp [encode]), by simp [encode]⟩

theorem ldDtVx (x : Reg) : Statement (.ldDtVx x) :=
  ⟨⟨0xF0FF#16, 0xF015#16, fun w => .ldDtVx (fieldX w)⟩, by simp [opcodeMap, rowsMisc],
    (and_F0FF _ 0xf#4 0x15#8).mpr (by simp [encode]), by simp [encode]⟩

theorem ldStVx (x : Reg) : Statement (.ldStVx x) :=
  ⟨⟨0xF0FF#16, 0xF018#16, fun w => .ldStVx (fieldX w)⟩, by simp [opcodeMap, rowsMisc],
    (and_F0FF _ 0xf#4 0x18#8).mpr (by simp [encode]), by simp [encode]⟩

theorem addI (x : Reg) : Statement (.addI x) :=
  ⟨⟨0xF0FF#16, 0xF01E#16, fun w => .addI (fieldX w)⟩, by simp [opcodeMap, rowsMisc],
    (and_F0FF _ 0xf#4 0x1e#8).mpr (by simp [encode]), by simp [encode]⟩

theorem ldF (x : Reg) : Statement (.ldF x) :=
  ⟨⟨0xF0FF#16, 0xF029#16, fun w => .ldF (fieldX w)⟩, by simp [opcodeMap, rowsMisc],
    (and_F0FF _ 0xf#4 0x29#8).mpr (by simp [encode]), by simp [encode]⟩

theorem ldB (x : Reg) : Statement (.ldB x) :=
  ⟨⟨0xF0FF#16, 0xF033#16, fun w => .ldB (fieldX w)⟩, by simp [opcodeMap, rowsMisc],
    (and_F0FF _ 0xf#4 0x33#8).mpr (by simp [encode]), by simp [encode]⟩

theorem ldMemVx (x : Reg) : Statement (.ldMemVx x) :=
  ⟨⟨0xF0FF#16, 0xF055#16, fun w => .ldMemVx (fieldX w)⟩, by simp [opcodeMap, rowsMisc],
    (and_F0FF _ 0xf#4 0x55#8).mpr (by simp [encode]), by simp [encode]⟩

theorem ldVxMem (x : Reg) : Statement (.ldVxMem x) :=
  ⟨⟨0xF0FF#16, 0xF065#16, fun w => .ldVxMem (fieldX w)⟩, by simp [opcodeMap, rowsMisc],
    (and_F0FF _ 0xf#4 0x65#8).mpr (by simp [encode]), by simp [encode]⟩

end Sys2Proof.Laws.PatternOfEncode
end

