-- ==== Sys2Proof/Laws/Timer.lean ====
section
/-! SUPPORT. What a tick and the loop of `advance` do, said once (R230, R231). -/

namespace Sys2Proof.Machine

theorem countDown_toNat (t : Byte) : (countDown t).toNat = t.toNat - 1 := by
  have ht := t.isLt
  unfold countDown
  split
  · simp only [BitVec.toNat_sub, BitVec.toNat_ofNat]
    omega
  · omega

/-- The state of a tick after the publish, before the notification (R231). -/
def State.ticked (s : State) : State :=
  { s with
    dt := countDown s.dt, st := countDown s.st, cyc := s.cyc + 1
    outputs := s.outputs ++ [.stagedTimers (countDown s.dt) (countDown s.st), .published (s.cyc + 1)] }

/-- A tick: decrement, stage, publish, and then notify if `ST` was nonzero (R231). -/
theorem tick_eq (s : State) :
    tick s = if 0 < s.st.toNat then soundChanged (countDown s.st) (s.cyc + 1) s.ticked else s.ticked := by
  unfold tick publish State.ticked State.emit
  simp only [List.append_assoc, List.cons_append, List.nil_append]

/-- A tick neither reads nor writes `ACC` (R232). -/
theorem tick_setAcc (s : State) (a : Rat) : tick { s with acc := a } = { tick s with acc := a } := by
  rw [tick_eq, tick_eq]
  simp only [soundChanged, updateSoundTimer_eq]
  split <;> rfl

/-- The loop of `advance` takes `n` rounds when that many ticks are due. -/
theorem tickWhileDue_rounds (n fuel : Nat) (hf : n ≤ fuel) (s : State) (h1 : (n : Rat) / 60 ≤ s.acc)
    (h2 : s.acc < (n + 1 : Rat) / 60) :
    tickWhileDue fuel s = tick^[n] { s with acc := s.acc - n / 60 } := by
  induction n generalizing fuel s with
  | zero =>
    have hnot : ¬ (1 : Rat) / 60 ≤ s.acc := by
      intro h
      norm_num at h2 h
      linarith
    cases fuel with
    | zero => simp [tickWhileDue]
    | succ fuel =>
      rw [tickWhileDue, if_neg hnot]
      simp
  | succ n ih =>
    obtain ⟨fuel, rfl⟩ : ∃ f, fuel = f + 1 := ⟨fuel - 1, by omega⟩
    push_cast at h1 h2
    have hn : (0 : Rat) ≤ n := Nat.cast_nonneg n
    have hdue : (1 : Rat) / 60 ≤ s.acc := by linarith
    rw [tickWhileDue, if_pos hdue, tick_setAcc, ih fuel (by omega) _ (by simp only []; linarith)
      (by simp only []; linarith), Function.iterate_succ_apply, tick_setAcc]
    have hacc : s.acc - 1 / 60 - (n : Rat) / 60 = s.acc - ((n + 1 : Nat) : Rat) / 60 := by push_cast; ring
    simp only [hacc]
    exact congrArg (tick^[n]) (tick_setAcc s _).symm

end Sys2Proof.Machine
end

