-- ==== Sys2Proof/Tests/Slice0.lean ====
section
/-! SUPPORT. The model's own tests: the well-formedness smoke, decoding of words written out from the opcode map (R83), one
step of each instruction (the vectors V and the worked examples of 95_test_vectors.md and of the instruction rules), the host
events (the vectors T, B and L), and a witness for the hypotheses of every statement that has some. -/

namespace Sys2Proof.Tests

open Sys2Proof Sys2Proof.Machine

/-! ## Helpers -/

/-- Power-on with some registers written. -/
def regs (l : List (Reg × Byte)) : State := l.foldl (fun s p => s.setReg p.1 p.2) State.reset

/-- One step runs the opcode, and the state after it has the property. -/
def ran (s : State) (w : Word) (p : State → Bool) : Bool :=
  match step (s.placeWord w) with
  | .next t => p t
  | .fault _ => false
  | .refused _ => false

/-- One step performs the event, and the state after it has the property. -/
def did (s : State) (e : Event) (p : State → Bool) : Bool :=
  match step { s with inputs := [e] } with
  | .next t => p t
  | .fault _ => false
  | .refused _ => false

/-- A loaded machine that has one opcode at 0x200 and one cycle to run. -/
def readyFor (w : Word) : State := State.reset.placeWord w

/-- The state with one byte stored. -/
def poke (s : State) (a : Nat) (val : Byte) : State := s.storeByte a val

/-! ## Well-formedness (R83, R121) -/

theorem test_wf_refuses_sys_00E0 : (Instr.sys 0x0E0#12).wf = false := by decide
theorem test_wf_refuses_sys_00EE : (Instr.sys 0x0EE#12).wf = false := by decide
theorem test_wf_accepts_sys : (Instr.sys 0x0E1#12).wf = true := by decide

/-! ## Decoding, one word for each row of the opcode map (R83) -/

theorem test_decode_cls : decodeBytes [0x00#8, 0xE0#8] = .ok .cls := by decide
theorem test_decode_ret : decodeBytes [0x00#8, 0xEE#8] = .ok .ret := by decide
theorem test_decode_sys : decodeBytes [0x01#8, 0x23#8] = .ok (.sys 0x123#12) := by decide
theorem test_decode_jp : decodeBytes [0x12#8, 0x08#8] = .ok (.jp 0x208#12) := by decide
theorem test_decode_call : decodeBytes [0x22#8, 0x0A#8] = .ok (.call 0x20A#12) := by decide
theorem test_decode_seByte : decodeBytes [0x31#8, 0x05#8] = .ok (.seByte 0x1#4 0x05#8) := by decide
theorem test_decode_sneByte : decodeBytes [0x41#8, 0x03#8] = .ok (.sneByte 0x1#4 0x03#8) := by decide
theorem test_decode_seReg : decodeBytes [0x52#8, 0x30#8] = .ok (.seReg 0x2#4 0x3#4) := by decide
theorem test_decode_ldByte : decodeBytes [0x6A#8, 0x5C#8] = .ok (.ldByte 0xA#4 0x5C#8) := by decide
theorem test_decode_addByte : decodeBytes [0x70#8, 0x02#8] = .ok (.addByte 0x0#4 0x02#8) := by decide
theorem test_decode_ldReg : decodeBytes [0x83#8, 0x20#8] = .ok (.ldReg 0x3#4 0x2#4) := by decide
theorem test_decode_orReg : decodeBytes [0x80#8, 0x11#8] = .ok (.orReg 0x0#4 0x1#4) := by decide
theorem test_decode_andReg : decodeBytes [0x80#8, 0x12#8] = .ok (.andReg 0x0#4 0x1#4) := by decide
theorem test_decode_xorReg : decodeBytes [0x80#8, 0x13#8] = .ok (.xorReg 0x0#4 0x1#4) := by decide
theorem test_decode_addReg : decodeBytes [0x80#8, 0x14#8] = .ok (.addReg 0x0#4 0x1#4) := by decide
theorem test_decode_subReg : decodeBytes [0x82#8, 0x05#8] = .ok (.subReg 0x2#4 0x0#4) := by decide
theorem test_decode_shr : decodeBytes [0x83#8, 0x46#8] = .ok (.shr 0x3#4 0x4#4) := by decide
theorem test_decode_subnReg : decodeBytes [0x80#8, 0x17#8] = .ok (.subnReg 0x0#4 0x1#4) := by decide
theorem test_decode_shl : decodeBytes [0x84#8, 0x3E#8] = .ok (.shl 0x4#4 0x3#4) := by decide
theorem test_decode_sneReg : decodeBytes [0x92#8, 0x30#8] = .ok (.sneReg 0x2#4 0x3#4) := by decide
theorem test_decode_ldI : decodeBytes [0xA3#8, 0x01#8] = .ok (.ldI 0x301#12) := by decide
theorem test_decode_jpV0 : decodeBytes [0xB3#8, 0x02#8] = .ok (.jpV0 0x302#12) := by decide
theorem test_decode_rnd : decodeBytes [0xC1#8, 0x0F#8] = .ok (.rnd 0x1#4 0x0F#8) := by decide
theorem test_decode_drw : decodeBytes [0xD1#8, 0x25#8] = .ok (.drw 0x1#4 0x2#4 0x5#4) := by decide
theorem test_decode_skp : decodeBytes [0xE3#8, 0x9E#8] = .ok (.skp 0x3#4) := by decide
theorem test_decode_sknp : decodeBytes [0xE3#8, 0xA1#8] = .ok (.sknp 0x3#4) := by decide
theorem test_decode_ldVxDt : decodeBytes [0xF1#8, 0x07#8] = .ok (.ldVxDt 0x1#4) := by decide
theorem test_decode_ldVxK : decodeBytes [0xF2#8, 0x0A#8] = .ok (.ldVxK 0x2#4) := by decide
theorem test_decode_ldDtVx : decodeBytes [0xF3#8, 0x15#8] = .ok (.ldDtVx 0x3#4) := by decide
theorem test_decode_ldStVx : decodeBytes [0xF4#8, 0x18#8] = .ok (.ldStVx 0x4#4) := by decide
theorem test_decode_addI : decodeBytes [0xF5#8, 0x1E#8] = .ok (.addI 0x5#4) := by decide
theorem test_decode_ldF : decodeBytes [0xF6#8, 0x29#8] = .ok (.ldF 0x6#4) := by decide
theorem test_decode_ldB : decodeBytes [0xF7#8, 0x33#8] = .ok (.ldB 0x7#4) := by decide
theorem test_decode_ldMemVx : decodeBytes [0xF8#8, 0x55#8] = .ok (.ldMemVx 0x8#4) := by decide
theorem test_decode_ldVxMem : decodeBytes [0xF9#8, 0x65#8] = .ok (.ldVxMem 0x9#4) := by decide

/-- Unassigned words of each kind (R85), and the SUPER-CHIP words of R86 that stay `0nnn`. -/
theorem test_decode_unassigned :
    decodeWord 0x5121#16 = .error .compareNibble ∧ decodeWord 0x912F#16 = .error .compareNibble ∧
    decodeWord 0x8128#16 = .error .aluFunction ∧ decodeWord 0x812F#16 = .error .aluFunction ∧
    decodeWord 0xE19F#16 = .error .keyFunction ∧ decodeWord 0xF130#16 = .error .miscFunction ∧
    decodeWord 0x00FF#16 = .ok (.sys 0x0FF#12) ∧ decodeBytes [0x12#8] = .error .truncated := by decide

/-- The opcode map has the 35 rows of R83, and a table word goes through its two bytes. -/
theorem test_opcode_map_rows : opcodeMap.length = 35 ∧ decodeTableWord 16 0x800E = some (.shl 0#4 0#4) := by decide

/-! ## One step of each instruction -/

/-- V100: every cell 0, `VF` unchanged. -/
theorem test_cls :
    ran { regs [(15#4, 7#8)] with disp := flipAt State.reset.disp 195 } 0x00E0#16
      (fun t => !t.cell 3 3 && t.reg 15#4 == 7#8 && t.pc == 0x202#16) = true := by decide

/-- R122's example: `SP = 1`, `STACK[0] = 0x206`. -/
theorem test_ret :
    ran { State.reset with stack := (Vector.replicate 16 0#16).set 0 0x206#16, sp := 1 } 0x00EE#16
      (fun t => t.sp == 0 && t.pc == 0x206#16 && t.stack[0] == 0x206#16) = true := by decide

/-- R122: with `SP = 0` the instruction is ignored. -/
theorem test_ret_underflow : ran State.reset 0x00EE#16 (fun t => t.sp == 0 && t.pc == 0x202#16) = true := by decide

/-- R121's example. -/
theorem test_sys : ran State.reset 0x0123#16 (fun t => t.pc == 0x202#16 && t.opc == 0x0123#16) = true := by decide

/-- R123's example, at 0x208. -/
theorem test_jp : ran { State.reset with pc := 0x208#16 } 0x1208#16 (fun t => t.pc == 0x208#16) = true := by decide

/-- R124's example: `220A` at 0x204. -/
theorem test_call :
    ran { State.reset with pc := 0x204#16 } 0x220A#16
      (fun t => t.stack[0] == 0x206#16 && t.sp == 1 && t.pc == 0x20A#16) = true := by decide

/-- R124: with `SP = 16` the instruction is ignored. -/
theorem test_call_overflow :
    ran { State.reset with sp := 16 } 0x220A#16 (fun t => t.sp == 16 && t.pc == 0x202#16) = true := by decide

/-- R125's example: `3100` at 0x208 skips. -/
theorem test_seByte : ran { State.reset with pc := 0x208#16 } 0x3100#16 (fun t => t.pc == 0x20C#16) = true := by decide

/-- R126's example: `4103` at 0x208 with `V1 = 3` does not skip. -/
theorem test_sneByte :
    ran { regs [(1#4, 3#8)] with pc := 0x208#16 } 0x4103#16 (fun t => t.pc == 0x20A#16) = true := by decide

/-- R127's example. -/
theorem test_seReg :
    ran (regs [(2#4, 7#8), (3#4, 7#8)]) 0x5230#16 (fun t => t.pc == 0x204#16) = true := by decide

/-- R128's example. -/
theorem test_sneReg :
    ran (regs [(2#4, 7#8), (3#4, 8#8)]) 0x9230#16 (fun t => t.pc == 0x204#16) = true := by decide

/-- V72. -/
theorem test_ldByte : ran State.reset 0x6A5C#16 (fun t => t.reg 10#4 == 0x5C#8) = true := by decide

/-- V70: `VF` is not written. -/
theorem test_addByte :
    ran (regs [(0#4, 0xFF#8), (15#4, 7#8)]) 0x7002#16 (fun t => t.reg 0#4 == 0x01#8 && t.reg 15#4 == 7#8) = true := by
  decide

/-- V60. -/
theorem test_ldReg : ran (regs [(2#4, 0xF3#8)]) 0x8320#16 (fun t => t.reg 3#4 == 0xF3#8) = true := by decide

/-- V56. -/
theorem test_orReg :
    ran (regs [(0#4, 0xF0#8), (1#4, 0x3C#8), (15#4, 1#8)]) 0x8011#16
      (fun t => t.reg 0#4 == 0xFC#8 && t.reg 15#4 == 0#8) = true := by decide

/-- V57. -/
theorem test_andReg :
    ran (regs [(0#4, 0xF0#8), (1#4, 0x3C#8), (15#4, 1#8)]) 0x8012#16
      (fun t => t.reg 0#4 == 0x30#8 && t.reg 15#4 == 0#8) = true := by decide

/-- V58. -/
theorem test_xorReg :
    ran (regs [(0#4, 0xF0#8), (1#4, 0x3C#8), (15#4, 1#8)]) 0x8013#16
      (fun t => t.reg 0#4 == 0xCC#8 && t.reg 15#4 == 0#8) = true := by decide

/-- R148's example. -/
theorem test_addReg :
    ran (regs [(0#4, 0xFF#8), (1#4, 0x0F#8)]) 0x8014#16
      (fun t => t.reg 0#4 == 0x0E#8 && t.reg 15#4 == 1#8) = true := by decide

/-- V61: with `x = F` the carry stays and the result is lost. -/
theorem test_addReg_flag_last :
    ran (regs [(15#4, 0xFF#8), (1#4, 0x01#8)]) 0x8F14#16 (fun t => t.reg 15#4 == 1#8) = true := by decide

/-- R149's example. -/
theorem test_subReg :
    ran (regs [(2#4, 0x01#8), (0#4, 0x10#8)]) 0x8205#16
      (fun t => t.reg 2#4 == 0xF1#8 && t.reg 15#4 == 0#8) = true := by decide

/-- V62. -/
theorem test_subReg_flag_last :
    ran (regs [(15#4, 0x10#8), (1#4, 0x01#8)]) 0x8F15#16 (fun t => t.reg 15#4 == 1#8) = true := by decide

/-- R150's example. -/
theorem test_shr :
    ran (regs [(3#4, 0xF3#8)]) 0x8306#16 (fun t => t.reg 3#4 == 0x79#8 && t.reg 15#4 == 1#8) = true := by decide

/-- V49. -/
theorem test_subnReg :
    ran (regs [(0#4, 0x01#8), (1#4, 0x10#8)]) 0x8017#16
      (fun t => t.reg 0#4 == 0x0F#8 && t.reg 15#4 == 1#8) = true := by decide

/-- V53: `y` is ignored. -/
theorem test_shl :
    ran (regs [(0#4, 0x01#8), (15#4, 0xFF#8)]) 0x80FE#16
      (fun t => t.reg 0#4 == 0x02#8 && t.reg 15#4 == 0#8) = true := by decide

/-- V80. -/
theorem test_ldI : ran State.reset 0xA123#16 (fun t => t.i == 0x123#12) = true := by decide

/-- R129's example. -/
theorem test_jpV0 : ran (regs [(0#4, 4#8)]) 0xB300#16 (fun t => t.pc == 0x304#16) = true := by decide

/-- R129: the largest target is not masked. -/
theorem test_jpV0_unmasked : ran (regs [(0#4, 0xFF#8)]) 0xBFFF#16 (fun t => t.pc == 0x10FE#16) = true := by decide

/-- V73: `kk = 0` gives 0, whatever the draw. -/
theorem test_rnd : ∃ t, exec (.rnd 0#4 0#8) State.reset = .next t ∧ t.reg 0#4 = 0#8 ∧ t.draws = 1 :=
  ⟨_, rfl, BitVec.and_zero, rfl⟩

/-- V74: the draw 0xAB masked with 0x0F. -/
theorem test_rnd_mask : 0xAB#8 &&& 0x0F#8 = 0x0B#8 := by decide

/-- V101: the sprite wraps at the right edge. -/
theorem test_drw_wraps :
    ran { poke (regs [(0#4, 62#8)]) 0x300 0xF0#8 with i := 0x300#12 } 0xD011#16
      (fun t => t.cell 62 0 && t.cell 63 0 && t.cell 0 0 && t.cell 1 0 && !t.cell 2 0 && t.reg 15#4 == 0#8) = true := by
  decide

/-- V105: a collision. -/
theorem test_drw_collides :
    ran { poke State.reset 0x300 0x18#8 with i := 0x300#12, disp := flipAt State.reset.disp 3 } 0xD011#16
      (fun t => !t.cell 3 0 && t.cell 4 0 && t.reg 15#4 == 1#8) = true := by decide

/-- V115: only the low nibble selects the key. -/
theorem test_skp :
    ran { regs [(0#4, 0x13#8)] with keypad := 0x0008#16 } 0xE09E#16 (fun t => t.pc == 0x204#16) = true := by decide

/-- V116. -/
theorem test_sknp :
    ran { regs [(0#4, 5#8)] with keypad := 0x0020#16 } 0xE0A1#16 (fun t => t.pc == 0x202#16) = true := by decide

/-- V110. -/
theorem test_ldVxDt : ran { State.reset with dt := 0x2A#8 } 0xF107#16 (fun t => t.reg 1#4 == 0x2A#8) = true := by decide

/-- V118: a held key does not satisfy the wait. -/
theorem test_ldVxK :
    ran { State.reset with keypad := 0xFFFF#16 } 0xF30A#16
      (fun t => t.wait && t.wreg == 3#4 && t.pc == 0x200#16 && t.reg 3#4 == 0#8) = true := by decide

/-- V111's instruction with R201's example: `DT = 3`, and nothing is notified. -/
theorem test_ldDtVx :
    ran (regs [(0#4, 3#8)]) 0xF015#16
      (fun t => t.dt == 3#8 && t.outputs.head? == some (.stagedDelay 3#8) && t.outputs.length == 2) = true := by decide

/-- V112: the notification carries `CYC`, and BEEP starts. -/
theorem test_ldStVx :
    ran { regs [(0#4, 3#8)] with cyc := 10 } 0xF018#16
      (fun t => t.st == 3#8 && t.active && t.lastC == 10 && t.outputs[1]? == some (.soundChanged 3#8 10)) = true := by
  decide

/-- V82: the sum is reduced. -/
theorem test_addI :
    ran { regs [(0#4, 1#8), (15#4, 9#8)] with i := 0xFFF#12 } 0xF01E#16
      (fun t => t.i == 0#12 && t.reg 15#4 == 9#8) = true := by decide

/-- V85, at the reference base 0x050: the low nibble selects the glyph. -/
theorem test_ldF : glyphAddress 0x050 (lowNibble 0x1A#8) = 0x082 := by decide

/-- R173's example. -/
theorem test_ldB :
    ran { regs [(0#4, 0x7B#8)] with i := 0x300#12 } 0xF033#16
      (fun t => t.readByte 0x300 == 1#8 && t.readByte 0x301 == 2#8 && t.readByte 0x302 == 3#8) = true := by decide

/-- V91: the store stops at the end of memory, and `I` still advances. -/
theorem test_ldMemVx :
    ran { regs [(0#4, 1#8), (1#4, 2#8), (2#4, 3#8), (3#4, 4#8)] with i := 0xFFE#12 } 0xF355#16
      (fun t => t.readByte 0xFFE == 1#8 && t.readByte 0xFFF == 2#8 && t.mem.length == 4 && t.i == 2#12) = true := by
  decide

/-- V92: a register past the end of memory keeps its value. -/
theorem test_ldVxMem :
    ran { poke (regs [(1#4, 0x11#8)]) 0xFFF 0x77#8 with i := 0xFFF#12 } 0xF265#16
      (fun t => t.reg 0#4 == 0x77#8 && t.reg 1#4 == 0x11#8 && t.i == 2#12) = true := by decide

/-- R102: an opcode at 4094 is followed by the one at address 1. -/
theorem test_fetch_wraps : ran { State.reset with pc := 4094#16 } 0x6101#16
    (fun t => t.reg 1#4 == 1#8 && t.pc == 4096#16 && t.fetchAddress == 1) = true := by decide

/-- R85: an unassigned opcode stages and changes nothing else. -/
theorem test_unassigned :
    ran State.reset 0x8128#16
      (fun t => t.v == State.reset.v && t.pc == 0x202#16 && t.opc == 0x8128#16 && t.outputs.length == 1) = true := by
  decide

/-! ## The host's events -/

/-- L7: without a program nothing happens, and one cycle of the event is used up. -/
theorem test_not_loaded : did State.reset (.executeCycles 0#16 10)
    (fun t => t.pc == 0x200#16 && t.outputs == [] && t.inputs == [.executeCycles 0#16 9]) = true := by decide

/-- V121: a key press without a wait does nothing. -/
theorem test_key_without_wait : did State.reset (.setKeyState 4#4 true)
    (fun t => t.v == State.reset.v && t.pc == 0x200#16 && !t.wait) = true := by decide

/-- V120, under both values of `KEYWAIT_RESUME`. -/
theorem test_key_releases :
    (setKeyStateWith .advance 9#4 true { State.reset with wait := true, wreg := 3#4 }).pc = 0x202#16 ∧
    (setKeyStateWith .reexecute 9#4 true { State.reset with wait := true, wreg := 3#4 }).reg 3#4 = 9#8 ∧
    (setKeyStateWith .reexecute 9#4 true { State.reset with wait := true, wreg := 3#4 }).pc = 0x200#16 := by decide

/-- T4: `advance(1/10)` from `CYC = 1` fires 6 ticks. -/
theorem test_advance :
    did { State.reset with cyc := 1 } (.advance (1 / 10)) (fun t => t.cyc == 7 && t.acc == 0) = true := by decide +kernel

/-- T1: half a tick period fires no tick. -/
theorem test_advance_half :
    did State.reset (.advance (1 / 120)) (fun t => t.cyc == 0 && t.acc == 1 / 120) = true := by decide +kernel

/-- T9: a negative time is refused. -/
theorem test_advance_negative :
    step { State.reset with inputs := [.advance (-1 / 60)] } = .refused .negativeElapsed :=
  if_pos (by norm_num)

/-- T7: a tick with both timers 0. -/
theorem test_forceTick : did State.reset .forceTick
    (fun t => t.cyc == 1 && t.outputs == [.stagedTimers 0#8 0#8, .published 1]) = true := by decide

/-- L4: reset stops an active beep through the notification. -/
theorem test_reset_stops_beep :
    did { State.reset with st := 5#8, active := true, chan := .active 1 12, cyc := 7 } .reset
      (fun t => t.st == 0#8 && !t.active && t.chan == .inactive && t.cyc == 7 &&
        t.outputs.drop 2 == [.soundChanged 0#8 7, .stopBeep, .channelState .inactive]) = true := by decide

/-- L3: the empty program loads. -/
theorem test_loadRom_empty : did State.reset (.loadRom []) (fun t => t.loaded && t.pc == 0x200#16) = true := by decide

/-- The bytes of a program lie at 0x200. -/
theorem test_loadRom_bytes : did State.reset (.loadRom [0x60#8, 0xFF#8])
    (fun t => t.loaded && t.readByte 0x200 == 0x60#8 && t.readByte 0x201 == 0xFF#8) = true := by decide

/-- B7: while muted nothing starts. -/
theorem test_muted : did { State.reset with muted := true, chan := .muted, cyc := 20 } (.setSoundTimer 5#8)
    (fun t => !t.active && t.lastV == 5#8 && t.lastC == 20 && t.chan == .muted) = true := by decide

/-- B5: muting stops an active beep. -/
theorem test_toggleMute : did { State.reset with active := true, chan := .active 1 9 } (.toggleMute true)
    (fun t => t.chan == .muted && t.outputs == [.stopBeep, .channelState .muted]) = true := by decide

/-- R44: the frequency is `BEEP_FREQ` also where no beep is active, and only `Active` has a stop. -/
theorem test_channel_fields :
    Channel.muted.frequency = Config.beepFreq ∧ State.reset.chan.frequency = Config.beepFreq ∧
      State.reset.chan.nextStopTick = none ∧ (Channel.active 440 13).nextStopTick = some 13 := ⟨rfl, rfl, rfl, rfl⟩

/-- K1, on the reference key map of R250: the lookup folds case. -/
theorem test_lookup : lookupIn qwertyKeys "q" = some 4 ∧ lookupIn qwertyKeys "p" = none := by decide +kernel

/-- T13. -/
theorem test_hostPublish : did { State.reset with cyc := 5 } .hostPublish (fun t => t.cyc == 6) = true := by decide

/-! ## Witnesses for the hypotheses of the statements -/

theorem witness_DecodeOfEncode : (Instr.sys 0xFFF#12).wf = true ∧ (Instr.drw 15#4 15#4 15#4).wf = true := by decide

theorem witness_EncodeOfDecode : decodeWord 0x8126#16 = .ok (.shr 1#4 2#4) := by decide

/-- The first and the last word of each kind of R85. -/
theorem witness_UnassignedOpcodesAreIgnored_words :
    (UnassignedWord 0x5001#16 ∧ UnassignedWord 0x9FFF#16) ∧ (UnassignedWord 0x8008#16 ∧ UnassignedWord 0x8FFF#16) ∧
      (UnassignedWord 0xE000#16 ∧ UnassignedWord 0xEFFF#16) ∧ UnassignedWord 0xF000#16 ∧ UnassignedWord 0xFFFF#16 := by
  refine ⟨⟨.inl ?_, .inl ?_⟩, ⟨.inr (.inl ?_), .inr (.inl ?_)⟩, ⟨.inr (.inr (.inl ?_)), .inr (.inr (.inl ?_))⟩,
    .inr (.inr (.inr ?_)), .inr (.inr (.inr ?_))⟩ <;> decide

/-- Such a word as the opcode of a cycle that is not skipped. -/
theorem witness_UnassignedOpcodesAreIgnored :
    (readyFor 0x5001#16).loaded = true ∧ (readyFor 0x5001#16).wait = false ∧
      UnassignedWord (readyFor 0x5001#16).fetchWord := by
  have h : (readyFor 0x5001#16).fetchWord = 0x5001#16 := by decide
  rw [h]
  exact ⟨rfl, rfl, witness_UnassignedOpcodesAreIgnored_words.1.1⟩

theorem witness_StepRunsDecodedInstruction :
    (readyFor 0x8014#16).inputs = .executeCycles 0#16 (0 + 1) :: [] ∧ (readyFor 0x8014#16).loaded = true ∧
      (readyFor 0x8014#16).wait = false ∧ decodeWord (readyFor 0x8014#16).fetchWord = .ok (.addReg 0#4 1#4) := by
  decide

theorem witness_SkippedCycleChangesNothing :
    { State.reset with inputs := [.executeCycles 0#16 1] }.inputs = .executeCycles 0#16 (0 + 1) :: [] ∧
      ({ State.reset with inputs := [.executeCycles 0#16 1] }.wait = true ∨
        { State.reset with inputs := [.executeCycles 0#16 1] }.loaded = false) := by decide

theorem witness_SkippedCycleChangesNothing_waiting :
    { readyFor 0x6101#16 with wait := true }.inputs = .executeCycles 0#16 (0 + 1) :: [] ∧
      ({ readyFor 0x6101#16 with wait := true }.wait = true ∨
        { readyFor 0x6101#16 with wait := true }.loaded = false) := by decide

theorem witness_CycleStagesItsRegisters :
    (∃ t, cycle 0#16 (readyFor 0x6101#16) = .next t) ∧ (readyFor 0x6101#16).loaded = true ∧
      (readyFor 0x6101#16).wait = false := ⟨cycle_has_next _ _, by decide⟩

/-- A full stack, and one with a single free entry. -/
theorem witness_CallPushesAndJumps :
    { State.reset with sp := 16 }.sp.val = 16 ∧ { State.reset with sp := 15 }.sp.val < 16 := by decide

/-- An empty stack, one with a single entry, and a full one. -/
theorem witness_RetPopsPc :
    State.reset.sp.val = 0 ∧ { State.reset with sp := 1 }.sp.val = (0 : Fin 16).val + 1 ∧
      { State.reset with sp := 16 }.sp.val = (15 : Fin 16).val + 1 := by decide

theorem witness_ReturnUndoesCall :
    { State.reset with sp := 15 }.sp.val < 16 ∧ ∃ t, ∃ u : State, exec (.call 0x20A#12) { State.reset with sp := 15 } = .next t ∧
      u.stack = t.stack ∧ u.sp = t.sp :=
  ⟨by decide, _, _, rfl, rfl, rfl⟩

/-- A canonical memory, with `I` where the first, the second and the third digit is the last that fits. -/
theorem witness_BcdStoresThreeDigits :
    { State.reset with i := 0xFFF#12 }.mem.wf = true ∧
      ¬ { State.reset with i := 0xFFF#12 }.i.toNat + 1 < 4096 ∧
      { State.reset with i := 0xFFE#12 }.i.toNat + 1 < 4096 ∧
      { State.reset with i := 0xFFD#12 }.i.toNat + 2 < 4096 := by decide

/-- `V0` fits at 0xFFF and `V1` does not; an address below `I` is none of the stored ones. -/
theorem witness_StoreRegistersTruncates :
    { State.reset with i := 0xFFF#12 }.mem.wf = true ∧ (0#4).toNat ≤ (1#4).toNat ∧
      { State.reset with i := 0xFFF#12 }.i.toNat + (0#4).toNat < 4096 ∧
      ¬ { State.reset with i := 0xFFF#12 }.i.toNat + (1#4).toNat < 4096 ∧
      ∀ j, j ≤ (1#4).toNat → { State.reset with i := 0xFFF#12 }.i.toNat + j < 4096 →
        0xFFE ≠ { State.reset with i := 0xFFF#12 }.i.toNat + j := by decide

theorem witness_StoreThenLoadRestoresRegisters :
    State.reset.mem.wf = true ∧ ∃ t, ∃ u : State, exec (.ldMemVx 2#4) State.reset = .next t ∧ u.mem = t.mem ∧ u.i = State.reset.i ∧
      (2#4).toNat ≤ (2#4).toNat ∧ State.reset.i.toNat + (2#4).toNat < 4096 := by
  obtain ⟨t, ht⟩ := exec_has_next (.ldMemVx 2#4) State.reset
  exact ⟨rfl, t, { t with i := State.reset.i }, ht, rfl, rfl, by decide⟩

/-- A fetch whose first byte, and one whose second byte, is a stored register. -/
theorem witness_StoredBytesAreFetched :
    State.reset.mem.wf = true ∧ ∃ t, ∃ u w : State, u.mem = t.mem ∧ w.mem = t.mem ∧
      exec (.ldMemVx 0#4) { State.reset with i := 0x300#12 } = .next t ∧ 0x300 + (0#4).toNat < 4096 ∧
      u.fetchAddress = 0x300 + (0#4).toNat ∧ w.fetchAddress + 1 = 0x300 + (0#4).toNat := by
  obtain ⟨t, ht⟩ := exec_has_next (.ldMemVx 0#4) { State.reset with i := 0x300#12 }
  exact ⟨rfl, t, { t with pc := 0x300#16 }, { t with pc := 0x2FF#16 }, rfl, rfl, ht, by decide, rfl, rfl⟩

/-- The three digits of 123 with `I = 0xFFD`, the last at the end of memory: fetches whose first byte is the first and the
second digit, and whose second byte is the first, the second and the third. -/
theorem witness_StoredBytesAreFetched_digits :
    State.reset.mem.wf = true ∧ ∃ t, ∃ at4094 at4093 at4092 : State,
      at4094.mem = t.mem ∧ at4093.mem = t.mem ∧ at4092.mem = t.mem ∧
      exec (.ldB 0#4) { regs [(0#4, 0x7B#8)] with i := 0xFFD#12 } = .next t ∧ 0xFFD + 2 < 4096 ∧
      at4093.fetchAddress = 0xFFD + 0 ∧ at4094.fetchAddress = 0xFFD + 1 ∧ at4092.fetchAddress + 1 = 0xFFD + 0 ∧
      at4093.fetchAddress + 1 = 0xFFD + 1 ∧ at4094.fetchAddress + 1 = 0xFFD + 2 := by
  obtain ⟨t, ht⟩ := exec_has_next (.ldB 0#4) { regs [(0#4, 0x7B#8)] with i := 0xFFD#12 }
  exact ⟨rfl, t, { t with pc := 4094#16 }, { t with pc := 4093#16 }, { t with pc := 4092#16 }, rfl, rfl, rfl, ht,
    by decide, rfl, rfl, rfl, rfl, rfl⟩

/-- A fetch whose first byte is the third digit, and `I` where the second and the third digit do not fit. -/
theorem witness_StoredBytesAreFetched_last_digit :
    (∃ t, ∃ u : State, u.mem = t.mem ∧ exec (.ldB 0#4) { regs [(0#4, 0x7B#8)] with i := 0x300#12 } = .next t ∧
      0x300 + 2 < 4096 ∧ u.fetchAddress = 0x300 + 2) ∧
    ¬ { State.reset with i := 0xFFF#12 }.i.toNat + 1 < 4096 ∧ ¬ { State.reset with i := 0xFFE#12 }.i.toNat + 2 < 4096 := by
  obtain ⟨t, ht⟩ := exec_has_next (.ldB 0#4) { regs [(0#4, 0x7B#8)] with i := 0x300#12 }
  exact ⟨⟨t, { t with pc := 0x302#16 }, rfl, ht, by decide, rfl⟩, by decide, by decide⟩

theorem witness_ReadAfterWrite : State.reset.mem.wf = true ∧ 4095 < 4096 := by decide

/-- A sprite of one pixel at `I = 0x300`, drawn at column 63 and row 31. -/
def spriteState : State := { poke (regs [(0#4, 63#8), (1#4, 31#8)]) 0x300 0xC0#8 with i := 0x300#12 }

/-- The sprite covers the cell at its place and the one it wraps to, and no other in the row below. -/
theorem witness_DrawFlipsCoveredCells :
    SpriteCovers spriteState 0#4 1#4 1#4 63 31 ∧ SpriteCovers spriteState 0#4 1#4 1#4 0 31 ∧
      ¬ SpriteCovers spriteState 0#4 1#4 1#4 63 0 := by
  refine ⟨⟨0, 0, by decide⟩, ⟨0, 1, by decide⟩, ?_⟩
  rintro ⟨row, col, h1, _, _, _, _, h2⟩
  have : row = 0 := by simpa using h1
  subst this
  exact absurd h2 (by decide)

/-- A covered cell that is set (a collision), and none (nothing is drawn). -/
theorem witness_DrawFlipsCoveredCells_collision :
    (∃ px py, px < 64 ∧ py < 32 ∧
      SpriteCovers { spriteState with disp := flipAt State.reset.disp 2047 } 0#4 1#4 1#4 px py ∧
      { spriteState with disp := flipAt State.reset.disp 2047 }.cell px py = true) ∧
    ¬ ∃ px py, px < 64 ∧ py < 32 ∧ SpriteCovers spriteState 0#4 1#4 0#4 px py ∧ spriteState.cell px py = true := by
  refine ⟨⟨63, 31, by decide, by decide, ⟨0, 0, by decide⟩, by decide +kernel⟩, ?_⟩
  rintro ⟨_, _, _, _, ⟨row, _, h, _⟩, _⟩
  simp at h

theorem witness_DrawingTwiceRestoresDisplay :
    (0#4 : Reg) ≠ regF ∧ (1#4 : Reg) ≠ regF ∧
      ∃ t u, exec (.drw 0#4 1#4 1#4) spriteState = .next t ∧ exec (.drw 0#4 1#4 1#4) t = .next u :=
  ⟨by decide, by decide, _, _, rfl, rfl⟩

theorem witness_RenderBufferIsRowMajor : 63 < 64 ∧ 31 < 32 := by decide

/-- A cycle that executes `F30A`. -/
theorem witness_KeyWaitEntry :
    (readyFor 0xF30A#16).loaded = true ∧ (readyFor 0xF30A#16).wait = false ∧
      (readyFor 0xF30A#16).fetchWord = encode (.ldVxK 3#4) := by decide

theorem witness_KeyPressReleasesWait :
    { State.reset with inputs := [.setKeyState 9#4 true] }.inputs = .setKeyState 9#4 true :: [] ∧
      ({ State.reset with wait := true }.wait = true ∧ true = true) ∧ ¬ (State.reset.wait = true ∧ true = true) ∧
      ¬ ({ State.reset with wait := true }.wait = true ∧ false = true) := by decide

theorem witness_ResumeAfterKeyWait :
    ((readyFor 0xF30A#16).loaded = true ∧ (readyFor 0xF30A#16).wait = false ∧
      (readyFor 0xF30A#16).fetchWord = encode (.ldVxK 3#4)) ∧ ∃ t, cycle 0#16 (readyFor 0xF30A#16) = .next t :=
  ⟨witness_KeyWaitEntry, cycle_has_next _ _⟩

/-- A step that leaves the key wait. -/
theorem witness_OnlyKeyPressOrResetLeavesWait :
    ∃ t, step { State.reset with wait := true, inputs := [.setKeyState 9#4 true] } = .next t ∧
      { State.reset with wait := true, inputs := [.setKeyState 9#4 true] }.wait = true ∧ t.wait = false := by
  refine ⟨_, rfl, rfl, ?_⟩
  unfold setKeyState
  cases Config.keyWaitResume <;> rfl

/-- A step that enters it. -/
theorem witness_OnlyKeyPressOrResetLeavesWait_entry :
    (readyFor 0xF30A#16).wait = false ∧ ∃ t, step (readyFor 0xF30A#16) = .next t ∧ t.wait = true :=
  ⟨rfl, _, rfl, rfl⟩

/-- An event that does not depend on the wait, in both of its values. -/
theorem witness_OnlyKeyPressOrResetLeavesWait_events : IndependentOfWait .forceTick ∧ IndependentOfWait (.advance (-1)) :=
  ⟨trivial, trivial⟩

/-- An instruction that writes memory. -/
theorem witness_OnlyNamedInstructionsWrite :
    ∃ t, exec (.ldB 0#4) { regs [(0#4, 0x7B#8)] with i := 0x300#12 } = .next t ∧
      t.mem ≠ { regs [(0#4, 0x7B#8)] with i := 0x300#12 }.mem :=
  ⟨_, rfl, by decide⟩

theorem witness_TickOrder :
    { State.reset with inputs := [.forceTick] }.inputs = .forceTick :: [] ∧
      { State.reset with st := 1#8, inputs := [.forceTick] }.st ≠ 0 := by decide

/-- A negative time, none, and exactly one tick period. -/
theorem witness_AdvanceFiresWholeTicks :
    { State.reset with inputs := [.advance (1 / 60)] }.inputs = .advance (1 / 60) :: [] ∧ 0 ≤ State.reset.acc ∧
      (-1 / 60 : Rat) < 0 ∧ (0 : Rat) ≤ 0 ∧ (0 : Rat) ≤ 1 / 60 :=
  ⟨rfl, le_refl _, by norm_num, le_refl _, by norm_num⟩

theorem witness_AdvanceIsDriftFree :
    0 ≤ State.reset.acc ∧ (0 : Rat) ≤ 1 / 120 ∧
      ∃ t u w, advance (1 / 120) State.reset = .next t ∧ advance (1 / 120) t = .next u ∧
        advance (1 / 120 + 1 / 120) State.reset = .next w :=
  ⟨le_refl _, by norm_num, _, _, _, if_neg (by norm_num), if_neg (by norm_num), if_neg (by norm_num)⟩

theorem witness_TimerSettersNotify :
    { State.reset with inputs := [.loadTimers 5#8 5#8] }.inputs = .loadTimers 5#8 5#8 :: [] ∧
      { State.reset with inputs := [.setSoundTimer 4#8] }.inputs = .setSoundTimer 4#8 :: [] ∧
      { State.reset with inputs := [.setDelayTimer 7#8] }.inputs = .setDelayTimer 7#8 :: [] := by decide

theorem witness_CycCountsPublishes : ∃ t, step { State.reset with inputs := [.hostPublish] } = .next t := ⟨_, rfl⟩

/-- The shortest and the longest beep. -/
theorem witness_BeepStopsAtNextStopTick :
    State.reset.muted = false ∧ State.reset.active = false ∧ 0 < (1#8).toNat ∧ 0 < (255#8).toNat ∧
      254 < (255#8).toNat := by decide

/-- One state for each of the four transitions. -/
theorem witness_BeepTransitions :
    { State.reset with muted := true }.muted = true ∧
      (State.reset.muted = false ∧ (1#8 : Byte) ≠ 0 ∧ State.reset.active = false) ∧
      ({ State.reset with active := true }.muted = false ∧ (0#8 : Byte) = 0 ∧
        { State.reset with active := true }.active = true) ∧
      (State.reset.muted = false ∧ ((0#8 : Byte) ≠ 0 ↔ State.reset.active = true)) := by decide

theorem witness_ToggleMuteReevaluates :
    { State.reset with inputs := [.toggleMute true] }.inputs = .toggleMute true :: [] := rfl

theorem witness_MutedNeverStarts :
    { State.reset with muted := true, inputs := [.setSoundTimer 5#8] }.muted = true ∧
      { State.reset with muted := true, inputs := [.setSoundTimer 5#8] }.inputs.head? ≠ some (.toggleMute false) ∧
      ∃ t, step { State.reset with muted := true, inputs := [.setSoundTimer 5#8] } = .next t :=
  ⟨rfl, by decide, _, rfl⟩

/-- Every key map maps some code, and leaves some code unmapped. -/
theorem witness_KeyEventsSetHighlightOrGuidance :
    (∃ code k, lookup code = some k ∧
      { State.reset with inputs := [.handleKeyDown code] }.inputs = .handleKeyDown code :: []) ∧
    ∃ code, lookup code = none ∧
      { State.reset with inputs := [.handleKeyUp code] }.inputs = .handleKeyUp code :: [] := by
  refine ⟨⟨Config.keyMap.key[(0 : Fin 16)], 0, ?_, rfl⟩, ?_⟩
  · exact lookupAmong_some_of_mem _ Config.keyMap.injective 0 _ (List.mem_finRange 0)
  · let total := ∑ k : Fin 16, Config.keyMap.key[k].toList.length
    refine ⟨String.ofList (List.replicate (total + 1) 'a'), lookupAmong_none_of_length _ _ _ fun k => ?_, rfl⟩
    have hk : Config.keyMap.key[k].toList.length ≤ total :=
      Finset.single_le_sum (f := fun j : Fin 16 => Config.keyMap.key[j].toList.length) (fun _ _ => Nat.zero_le _)
        (Finset.mem_univ k)
    simp only [String.toList_ofList, List.length_replicate]
    omega

/-- A mapped and an unmapped code. -/
theorem witness_LookupIsUniqueInverse : (∃ code k, lookup code = some k) ∧ ∃ code, lookup code = none := by
  obtain ⟨⟨code, k, h, _⟩, code', h', _⟩ := witness_KeyEventsSetHighlightOrGuidance
  exact ⟨⟨code, k, h⟩, code', h'⟩

theorem witness_ProfileConsumesGuidance :
    { State.reset with inputs := [.buildProfile] }.inputs = .buildProfile :: [] ∧
      { State.reset with inputs := [.buildProfile, .buildProfile] }.inputs = .buildProfile :: .buildProfile :: [] := by
  decide

theorem witness_KeyboardIsIsolated :
    (∃ t, step { State.reset with inputs := [.handleKeyDown "q"] } = .next t) ∧
      ∃ t, step { State.reset with inputs := [.buildProfile] } = .next t := ⟨⟨_, rfl⟩, _, rfl⟩

theorem witness_PowerOnState : 0 < 4096 ∧ 4095 < 4096 := by decide

theorem witness_ResetLeavesFreshMachine : { State.reset with inputs := [.reset] }.inputs = .reset :: [] := rfl

/-- The longest program that loads, and the shortest that does not; its first and its last byte. -/
theorem witness_LoadRomIsAllOrNothing :
    (List.replicate 3584 (1#8 : Byte)).length ≤ 3584 ∧ 3584 < (List.replicate 3585 (1#8 : Byte)).length ∧
      3583 < (List.replicate 3584 (1#8 : Byte)).length ∧
      { State.reset with inputs := [.loadRom (List.replicate 3584 1#8)] }.inputs =
        .loadRom (List.replicate 3584 1#8) :: [] := by
  simp only [List.length_replicate, Nat.le_refl, true_and, and_true]
  exact ⟨Nat.lt_succ_self _, Nat.lt_succ_self _⟩

theorem witness_HostPublishCounts : { State.reset with inputs := [.hostPublish] }.inputs = .hostPublish :: [] := rfl

/-- A machine in the key wait, muted, in the middle of a tick period, that has staged its timers. -/
def waitingState : State :=
  { State.reset with
    wait := true, loaded := true, pc := 4094#16, acc := 1 / 120, muted := true, chan := .muted, dt := 3#8, st := 4#8
    inputs := [.setKeyState 9#4 true]
    outputs := [.stagedTimers 3#8 4#8, .soundChanged 4#8 0, .channelState .muted] }

/-- That state has the invariant, and a step has a next state. -/
theorem witness_StepKeepsInv : Inv waitingState ∧ ∃ t, step waitingState = .next t where
  left :=
    { memory := rfl
      waitLoaded := fun _ => rfl
      activeUnmuted := fun h => nomatch h
      chanMuted := ⟨fun _ => rfl, fun _ => rfl⟩
      chanActive := ⟨fun ⟨_, h⟩ => (nomatch h), fun h => nomatch h⟩
      chanFreq := rfl
      accBounds := ⟨by norm_num [waitingState], by norm_num [waitingState]⟩
      pcBound := by decide
      stackBound := by decide
      waitPc := fun _ => by decide
      audio := rfl
      stagedDelay := rfl
      stagedSound := rfl
      stagedChan := rfl }
  right := ⟨_, rfl⟩

end Sys2Proof.Tests
end

section
/-! PROOFS. The cycle that is skipped (R100, R101, R104). -/

namespace Sys2Proof.Machine

/-- Requeueing writes the inputs alone: what is left of the event goes before the rest of the queue (R100). -/
theorem requeue_eq_cyclesLeft (s : State) (keypad : Word) (n : Nat) :
    s.requeue keypad n = { s with inputs := cyclesLeft keypad n ++ s.inputs } := by
  cases n <;> rfl

/-- The step of an `executeCycles` event that has cycles to run is one cycle, with one cycle fewer left of it (R100, R107). -/
theorem step_executeCycles_succ {s : State} {keypad : Word} {n : Nat} {rest : List Event}
    (hin : s.inputs = .executeCycles keypad (n + 1) :: rest) :
    step s = cycle keypad { s with inputs := cyclesLeft keypad n ++ rest } := by
  rw [step_of_inputs hin]
  exact congrArg (cycle keypad) (requeue_eq_cyclesLeft { s with inputs := rest } keypad n)

/-- Without a program nothing is fetched (R101). -/
theorem cycle_of_not_loaded {s : State} (keypad : Word) (hloaded : s.loaded = false) : cycle keypad s = .next s :=
  if_pos hloaded

/-- In the key wait nothing is fetched (R104). -/
theorem cycle_of_wait {s : State} (keypad : Word) (hwait : s.wait = true) : cycle keypad s = .next s := by
  simp [cycle, hwait]

/-- Settles O8: the step is one cycle with the event's rest put back, and that cycle is skipped for either reason. -/
theorem skippedCycleChangesNothing : Obligations.SkippedCycleChangesNothing := by
  intro s keypad n rest hin hskip
  rw [step_executeCycles_succ hin]
  cases hskip with
  | inl hwait => exact cycle_of_wait keypad hwait
  | inr hloaded => exact cycle_of_not_loaded keypad hloaded

end Sys2Proof.Machine
end

section
/-! PROOFS. The opcode map picks what the decoder picks (R83, R84): every row compares the whole major opcode, so only
the rows of the word's own major opcode can match it, and each switch of R84 tests those rows. -/

namespace Sys2Proof

/-- What the first matching one of some rows of the opcode map builds from the word (R83). -/
def firstMatch (w : Word) (rows : List OpcodeRow) : Option Instr :=
  (rows.find? fun row => w &&& row.mask == row.pattern).map fun row => row.build w

theorem decodeByMap_eq_firstMatch (w : Word) : decodeByMap w = firstMatch w opcodeMap := rfl

theorem firstMatch_nil (w : Word) : firstMatch w [] = none := rfl

theorem firstMatch_cons (w : Word) (row : OpcodeRow) (rows : List OpcodeRow) :
    firstMatch w (row :: rows) = if w &&& row.mask = row.pattern then some (row.build w) else firstMatch w rows := by
  by_cases h : w &&& row.mask = row.pattern <;> simp [firstMatch, h]

/-! ## The rows of one major opcode -/

theorem fieldHi_and (w m : Word) : fieldHi (w &&& m) = fieldHi w &&& fieldHi m := BitVec.extractLsb'_and

/-- Every row compares all four bits of the major opcode. -/
theorem fieldHi_mask : ∀ row ∈ opcodeMap, fieldHi row.mask = 0xF#4 := by decide

theorem fieldHi_pattern_of_match {w : Word} {row : OpcodeRow} (hrow : row ∈ opcodeMap)
    (hmatch : w &&& row.mask = row.pattern) : fieldHi row.pattern = fieldHi w := by
  rw [← hmatch, fieldHi_and, fieldHi_mask row hrow]
  exact BitVec.and_allOnes

/-- The rows of the opcode map whose pattern has the major opcode `hi`. -/
def rowsOfMajor (hi : Nat) : List OpcodeRow := opcodeMap.filter fun row => (fieldHi row.pattern).toNat == hi

theorem decodeByMap_eq_rowsOfMajor (w : Word) : decodeByMap w = firstMatch w (rowsOfMajor (fieldHi w).toNat) := by
  rw [decodeByMap_eq_firstMatch, firstMatch, firstMatch, rowsOfMajor, List.find?_filter]
  congr 1
  refine List.find?_congr fun row hrow => ?_
  by_cases hmatch : w &&& row.mask = row.pattern
  · simp [hmatch, fieldHi_pattern_of_match hrow hmatch]
  · simp [hmatch]

/-! ## One row, for a word of its major opcode -/

section
variable {w p : Word} {hi : Nibble} {build : Word → Instr} {rows : List OpcodeRow}

/-- A row of mask 0xF000 matches every word of its major opcode. -/
theorem firstMatch_F000 (hhi : fieldHi w = hi) (hp : packNibble hi 0 0 0 = p) :
    firstMatch w (⟨0xF000#16, p, build⟩ :: rows) = some (build w) := by
  subst hp
  rw [firstMatch_cons, if_pos ((and_F000 w hi).mpr hhi)]

/-- A row of mask 0xF00F compares what is left, the low nibble. -/
theorem firstMatch_F00F (hhi : fieldHi w = hi) (hp : packNibble hi 0 0 (fieldN p) = p) :
    firstMatch w (⟨0xF00F#16, p, build⟩ :: rows) =
      if fieldN w = fieldN p then some (build w) else firstMatch w rows := by
  have hiff : w &&& 0xF00F#16 = p ↔ fieldN w = fieldN p := by
    rw [← hp, and_F00F, fieldN_packNibble]
    exact and_iff_right hhi
  simp only [firstMatch_cons, hiff]

/-- A row of mask 0xF0FF compares what is left, the low byte. -/
theorem firstMatch_F0FF (hhi : fieldHi w = hi) (hp : packByte hi 0 (fieldKk p) = p) :
    firstMatch w (⟨0xF0FF#16, p, build⟩ :: rows) =
      if fieldKk w = fieldKk p then some (build w) else firstMatch w rows := by
  have hiff : w &&& 0xF0FF#16 = p ↔ fieldKk w = fieldKk p := by
    rw [← hp, and_F0FF, fieldKk_packByte]
    exact and_iff_right hhi
  simp only [firstMatch_cons, hiff]

end

/-! ## The rows of each switch of R84 -/

/-- Rows 1 to 3: the two whole-word rows come before `SYS`. -/
theorem firstMatch_sysRows {w : Word} (hhi : fieldHi w = 0x0#4) :
    firstMatch w (rowsSysToAdd.take 3) = some (decodeSys w) := by
  have hmask : w &&& 0xFFFF#16 = w := BitVec.and_allOnes
  simp only [rowsSysToAdd, List.take_succ_cons, firstMatch_cons w ⟨0xFFFF#16, _, _⟩, hmask]
  rw [firstMatch_F000 hhi (p := 0x0000#16) rfl, decodeSys]
  split_ifs <;> rfl

/-- Rows 8 and 20: the only row of its major opcode, which wants a low nibble of 0. -/
theorem firstMatch_compareRow {w p : Word} {hi : Nibble} {build : Word → Instr} (hhi : fieldHi w = hi)
    (hp : packNibble hi 0 0 0 = p) :
    firstMatch w [⟨0xF00F#16, p, build⟩] = (decodeCompare (fieldN w) (build w)).toOption := by
  have hn : fieldN p = 0#4 := hp ▸ fieldN_packNibble hi 0 0 0
  rw [firstMatch_F00F hhi (hn ▸ hp), hn, firstMatch_nil, decodeCompare]
  split_ifs <;> rfl

/-- Rows 11 to 19: the switch on the low nibble. -/
theorem firstMatch_aluRows {w : Word} (hhi : fieldHi w = 0x8#4) :
    firstMatch w rowsAlu = (decodeAlu (fieldX w) (fieldY w) (fieldN w)).toOption := by
  simp (disch := decide) only [rowsAlu, firstMatch_F00F hhi, firstMatch_nil]
  generalize fieldN w = n
  fun_cases decodeAlu (fieldX w) (fieldY w) n <;> simp_all [fieldN, Except.toOption, BitVec.toNat_eq]

/-- Rows 25 and 26: the switch on the low byte. -/
theorem firstMatch_keyRows {w : Word} (hhi : fieldHi w = 0xE#4) :
    firstMatch w (rowsIndexToKey.drop 5) = (decodeKey (fieldX w) (fieldKk w)).toOption := by
  simp (disch := decide) only [rowsIndexToKey, List.drop_succ_cons, List.drop_zero, firstMatch_F0FF hhi, firstMatch_nil]
  generalize fieldKk w = kk
  fun_cases decodeKey (fieldX w) kk <;> simp_all [fieldKk, Except.toOption, BitVec.toNat_eq]

/-- Rows 27 to 35: the switch on the low byte. -/
theorem firstMatch_miscRows {w : Word} (hhi : fieldHi w = 0xF#4) :
    firstMatch w rowsMisc = (decodeMisc (fieldX w) (fieldKk w)).toOption := by
  simp (disch := decide) only [rowsMisc, firstMatch_F0FF hhi, firstMatch_nil]
  generalize fieldKk w = kk
  fun_cases decodeMisc (fieldX w) kk <;> simp_all [fieldKk, Except.toOption, BitVec.toNat_eq]

/-! ## The whole switch -/

/-- The rows of each major opcode, read off the opcode map, are those of its branch of the switch. -/
theorem firstMatch_rowsOfMajor (w : Word) :
    firstMatch w (rowsOfMajor (fieldHi w).toNat) = (decodeWord w).toOption := by
  have hhi {k : Nat} (h : (fieldHi w).toNat = k) : fieldHi w = BitVec.ofNat 4 k := by
    rw [← h, BitVec.ofNat_toNat, BitVec.setWidth_eq]
  fun_cases decodeWord w
  case case1 h => rw [h]; exact firstMatch_sysRows (hhi h)
  case case2 h | case3 h | case4 h | case5 h | case7 h | case8 h | case11 h | case12 h | case13 h | case14 h =>
    rw [h]; exact firstMatch_F000 (hhi h) rfl
  case case6 h | case10 h => rw [h]; exact firstMatch_compareRow (hhi h) rfl
  case case9 h => rw [h]; exact firstMatch_aluRows (hhi h)
  case case15 h => rw [h]; exact firstMatch_keyRows (hhi h)
  case case16 =>
    have h : (fieldHi w).toNat = 0xF := by
      have hlt := (fieldHi w).isLt
      simp only [imp_false] at *
      omega
    rw [h]; exact firstMatch_miscRows (hhi h)

/-- Settles O3: the opcode map cut down to the rows of the word's major opcode is the switch of R84. -/
theorem decoderFollowsOpcodeMap : Obligations.DecoderFollowsOpcodeMap := by
  intro w
  rw [decodeByMap_eq_rowsOfMajor, firstMatch_rowsOfMajor]
  cases decodeWord w <;> rfl

end Sys2Proof
end

section
/-! PROOFS. `SYS`, `JP` and the four register compares (R121, R123, R125 to R128): what they write to `PC`, and that they
write nothing else. -/

namespace Sys2Proof.Machine

/-! ## Frames of the writes to `PC` -/

theorem UnchangedBut.refl (changed : List Field) (s : State) : UnchangedBut changed s s := by
  intro f _
  cases f with
  | mem | v => exact fun _ => rfl
  | _ => rfl

theorem State.setPc_frame (s : State) (target : Word) : UnchangedBut [.pc] s (s.setPc target) := by
  intro f hf
  cases f with
  | pc => exact absurd (List.mem_singleton_self _) hf
  | mem | v => exact fun _ => rfl
  | _ => rfl

theorem State.skipIf_frame (s : State) (cond : Bool) : UnchangedBut [.pc] s (s.skipIf cond) := by
  cases cond with
  | true => exact s.setPc_frame _
  | false => exact .refl _ s

/-! ## The values written to `PC` -/

/-- The target of a jump is its 12-bit operand, zero-extended (R123). -/
theorem targetOf_toNat (nnn : Addr) : (targetOf nnn).toNat = nnn.toNat :=
  BitVec.toNat_setWidth_of_le (by decide)

theorem State.skipIf_beq_pc (s : State) (a b : Byte) :
    (s.skipIf (a == b)).pc = if a = b then s.pc + 2 else s.pc := by
  simp only [State.skipIf_pc, beq_iff_eq]
  rfl

theorem State.skipIf_bne_pc (s : State) (a b : Byte) :
    (s.skipIf (a != b)).pc = if a = b then s.pc else s.pc + 2 := by
  simp only [State.skipIf_pc, bne_iff_ne, ne_eq, ite_not]
  rfl

/-! ## The obligations -/

/-- Settles O12: `SYS` answers the state it is given, and `JP` is one write to `PC`. -/
theorem sysIgnoredAndJumpSetsPc : Obligations.SysIgnoredAndJumpSetsPc := by
  intro nnn s
  have hsys : exec (.sys nnn) s = .next s := rfl
  have hjp : exec (.jp nnn) s = .next (s.setPc (targetOf nnn)) := rfl
  exact ⟨⟨s, hsys, .refl _ s⟩, ⟨_, hjp, targetOf_toNat nnn, s.setPc_frame _⟩⟩

/-- Settles O17: each compare is one conditional skip. -/
theorem comparesSkip : Obligations.ComparesSkip := by
  intro x y kk s
  have hseByte : exec (.seByte x kk) s = .next (s.skipIf (s.reg x == kk)) := rfl
  have hsneByte : exec (.sneByte x kk) s = .next (s.skipIf (s.reg x != kk)) := rfl
  have hseReg : exec (.seReg x y) s = .next (s.skipIf (s.reg x == s.reg y)) := rfl
  have hsneReg : exec (.sneReg x y) s = .next (s.skipIf (s.reg x != s.reg y)) := rfl
  exact ⟨⟨_, hseByte, s.skipIf_beq_pc _ _, s.skipIf_frame _⟩,
    ⟨_, hsneByte, s.skipIf_bne_pc _ _, s.skipIf_frame _⟩,
    ⟨_, hseReg, s.skipIf_beq_pc _ _, s.skipIf_frame _⟩,
    ⟨_, hsneReg, s.skipIf_bne_pc _ _, s.skipIf_frame _⟩⟩

end Sys2Proof.Machine
end

section
/-! PROOFS. The loads, `ADD Vx, kk` and the bitwise instructions (R142 to R147): the first are one register write, the
last a result and then a cleared flag. -/

namespace Sys2Proof.Machine

/-- An instruction that answers a register write leaves that value in `V[x]`, and writes nothing else. -/
theorem exec_setReg_writes {i : Instr} {s : State} {x : Reg} {val : Byte} (h : exec i s = .next (s.setReg x val)) :
    ∃ t, exec i s = .next t ∧ t.reg x = val ∧ RegsUnchangedBut x x s t ∧ UnchangedBut [.v] s t :=
  ⟨_, h, s.reg_setReg_self x val, s.setReg_regs x val, s.setReg_frame x val⟩

/-- An instruction that answers a result and a flag leaves the flag in `VF`, for `x = 0xF` too, and the result in any
other `V[x]` (R141). -/
theorem exec_setResult_writes {i : Instr} {s : State} {x : Reg} {result flag : Byte}
    (h : exec i s = .next (s.setResult x result flag)) :
    ∃ t, exec i s = .next t ∧ (x ≠ regF → t.reg x = result) ∧ t.reg regF = flag ∧
      RegsUnchangedBut x regF s t ∧ UnchangedBut [.v] s t :=
  ⟨_, h, s.setResult_result result flag, s.setResult_flag x result flag, s.setResult_regs x result flag,
    s.setResult_frame x result flag⟩

/-- Settles O18: each is one write to `V[x]`, and the sum of bytes is taken modulo 256. -/
theorem registerLoadsWriteOneRegister : Obligations.RegisterLoadsWriteOneRegister := by
  intro x y kk s
  have hldByte : exec (.ldByte x kk) s = .next (s.setReg x kk) := rfl
  have haddByte : exec (.addByte x kk) s = .next (s.setReg x (s.reg x + kk)) := rfl
  have hldReg : exec (.ldReg x y) s = .next (s.setReg x (s.reg y)) := rfl
  have hsum : (s.reg x + kk).toNat = ((s.reg x).toNat + kk.toNat) % 256 := BitVec.toNat_add _ _
  obtain ⟨t, ht, hval, hregs, hframe⟩ := exec_setReg_writes haddByte
  exact ⟨exec_setReg_writes hldByte, ⟨t, ht, hval ▸ hsum, hregs, hframe⟩, exec_setReg_writes hldReg⟩

/-- Settles O19: each writes its result and then 0 as the flag. -/
theorem bitwiseClearsFlag : Obligations.BitwiseClearsFlag := by
  intro x y s
  have hor : exec (.orReg x y) s = .next (s.setResult x (s.reg x ||| s.reg y) 0) := rfl
  have hand : exec (.andReg x y) s = .next (s.setResult x (s.reg x &&& s.reg y) 0) := rfl
  have hxor : exec (.xorReg x y) s = .next (s.setResult x (s.reg x ^^^ s.reg y) 0) := rfl
  exact ⟨exec_setResult_writes hor, exec_setResult_writes hand, exec_setResult_writes hxor⟩

end Sys2Proof.Machine
end

section
/-! PROOFS. The register transfers `Fx55` and `Fx65` (R174, R175): a loop that writes memory alone, or registers alone, and
then one write to `I`. -/

namespace Sys2Proof.Machine

/-! ## Frames of a write followed by another -/

theorem SameField.trans {s t u : State} {f : Field} (hst : SameField s t f) (htu : SameField t u f) :
    SameField s u f := by
  cases f with
  | mem | v => exact fun a => (htu a).trans (hst a)
  | _ => exact Eq.trans htu hst

/-- Of two writes, one after the other, the changed fields are those of both. -/
theorem UnchangedBut.trans {changed changed' : List Field} {s t u : State} (hst : UnchangedBut changed s t)
    (htu : UnchangedBut changed' t u) : UnchangedBut (changed ++ changed') s u := fun f hf =>
  (hst f fun hmem => hf (List.mem_append_left _ hmem)).trans (htu f fun hmem => hf (List.mem_append_right _ hmem))

theorem State.withMem_frame (s : State) (mem : Memory) : UnchangedBut [.mem] s { s with mem } := by
  intro f hf
  cases f with
  | mem => exact absurd (List.mem_singleton_self _) hf
  | v => exact fun _ => rfl
  | _ => rfl

theorem State.withV_frame (s : State) (v : Vector Byte 16) : UnchangedBut [.v] s { s with v } := by
  intro f hf
  cases f with
  | v => exact absurd (List.mem_singleton_self _) hf
  | mem => exact fun _ => rfl
  | _ => rfl

theorem State.setI_frame (s : State) (val : Nat) : UnchangedBut [.i] s (s.setI val) := by
  intro f hf
  cases f with
  | i => exact absurd (List.mem_singleton_self _) hf
  | mem | v => exact fun _ => rfl
  | _ => rfl

theorem storeRegs_frame (base : Addr) (k count : Nat) (s : State) :
    UnchangedBut [.mem] s (storeRegs base k count s) := by
  rw [storeRegs_only_mem]
  exact s.withMem_frame _

theorem loadRegs_frame (base : Addr) (k count : Nat) (s : State) :
    UnchangedBut [.v] s (loadRegs base k count s) := by
  rw [loadRegs_only_v]
  exact s.withV_frame _

/-! ## What is read after a write to `I` -/

theorem State.setI_i_toNat (s : State) (val : Nat) : (s.setI val).i.toNat = val % 4096 := BitVec.toNat_ofNat _ _

@[simp] theorem State.setI_readByte (s : State) (val a : Nat) : (s.setI val).readByte a = s.readByte a := rfl

@[simp] theorem State.setI_reg (s : State) (val : Nat) (r : Reg) : (s.setI val).reg r = s.reg r := rfl

/-! ## The obligations -/

/-- Settles O25: a byte that the store loop reaches is the register of its distance from `I`, and every other byte is at
no such distance. -/
theorem storeRegistersTruncates : Obligations.StoreRegistersTruncates := by
  intro x s hwf
  have hexec : exec (.ldMemVx x) s =
      .next ((storeRegs s.i 0 (x.toNat + 1) s).setI (s.i.toNat + x.toNat + 1)) := rfl
  refine ⟨_, hexec, fun r hrx hmem => ?stored, fun a hother => ?untouched, State.setI_i_toNat _ _,
    (storeRegs_frame _ _ _ _).trans (State.setI_frame _ _)⟩
  case stored =>
    rw [State.setI_readByte, readByte_storeRegs _ _ _ hwf, if_pos (by omega), Nat.add_sub_cancel_left,
      loopReg_of_toNat]
  case untouched =>
    have hout : ¬ (s.i.toNat + 0 ≤ a ∧ a < s.i.toNat + 0 + (x.toNat + 1) ∧ a < 4096) := fun hin =>
      hother (a - s.i.toNat) (by omega) (by omega) (by omega)
    rw [State.setI_readByte, readByte_storeRegs _ _ _ hwf, if_neg hout]

/-- Settles O26: the registers after the load loop, which runs over `V0..Vx`, are those after the write to `I`. -/
theorem loadRegistersTruncates : Obligations.LoadRegistersTruncates := by
  intro x s
  have hexec : exec (.ldVxMem x) s =
      .next ((loadRegs s.i 0 (x.toNat + 1) s).setI (s.i.toNat + x.toNat + 1)) := rfl
  have hcount : 0 + (x.toNat + 1) ≤ 16 := by omega
  refine ⟨_, hexec, fun r => ?_, State.setI_i_toNat _ _, (loadRegs_frame _ _ _ _).trans (State.setI_frame _ _)⟩
  rw [State.setI_reg, reg_loadRegs _ _ _ hcount]
  simp only [Nat.zero_le, true_and, Nat.zero_add, Nat.lt_succ_iff]

end Sys2Proof.Machine
end

section
/-! PROOFS. `CLS` (R190): one write to the display, of the rows that hold no set cell. -/

namespace Sys2Proof.Machine

theorem State.withDisp_frame (s : State) (disp : Cells) : UnchangedBut [.disp] s { s with disp } := by
  intro f hf
  cases f with
  | disp => exact absurd (List.mem_singleton_self _) hf
  | mem | v => exact fun _ => rfl
  | _ => rfl

/-- In a display of 32 zero rows no place holds a set cell. -/
theorem cellAt_replicate_zero (k : Fin 2048) : cellAt (Vector.replicate 32 0#64) k = false := by
  rw [cellAt, Vector.getElem_replicate, BitVec.getLsbD_zero]

/-- Settles O30: `CLS` is one write of the zero rows to the display. -/
theorem clsClearsEveryCell : Obligations.ClsClearsEveryCell := by
  intro s
  have hexec : exec .cls s = .next { s with disp := Vector.replicate 32 0#64 } := rfl
  exact ⟨_, hexec, fun px py _ _ => cellAt_replicate_zero (cellIndex px py), s.withDisp_frame _⟩

end Sys2Proof.Machine
end

section
/-! PROOFS. The key wait (R205, R206, R208): `Fx0A` enters it, and which events can enter or leave it. -/

namespace Sys2Proof.Machine

/-! ## Entering the wait (R205) -/

theorem State.withWait_frame (s : State) (wait : Bool) (wreg : Reg) :
    UnchangedBut [.wait, .wreg] s { s with wait, wreg } := by
  intro f hf
  cases f with
  | wait | wreg => exact absurd (by decide) hf
  | mem | v => exact fun _ => rfl
  | _ => rfl

theorem decodeWord_encode_ldVxK (x : Reg) : decodeWord (encode (.ldVxK x)) = .ok (.ldVxK x) := by
  simp [encode, decodeWord, decodeMisc]

/-- A cycle that is not skipped executes the decoded instruction between the fetch and the staging (R101, R103). -/
theorem cycle_of_decode {s : State} {i : Instr} (keypad : Word) (hloaded : s.loaded = true) (hwait : s.wait = false)
    (hdecode : decodeWord s.fetchWord = .ok i) :
    cycle keypad s = mapNext State.stageDec (exec i (s.fetched keypad)) := by
  simp [cycle, execOpcode, hloaded, hwait, hdecode]

/-- Taking `PC` back by 2 after the fetch gives the reduced fetch address: it is at most 4094, so nothing wraps (R102). -/
theorem State.fetched_pc_sub_two (s : State) (keypad : Word) :
    ((s.fetched keypad).pc - 2#16).toNat = s.pc.toNat % 4095 := by
  rw [State.fetched_pc, State.fetchAddress, BitVec.toNat_sub, BitVec.toNat_ofNat, BitVec.toNat_ofNat]
  omega

/-- Settles O37: the instruction writes the wait, its register and `PC`; in a whole cycle it takes back the 2 that the
fetch has added. -/
theorem keyWaitEntry : Obligations.KeyWaitEntry := by
  have hexec (x : Reg) (s : State) :
      exec (.ldVxK x) s = .next ({ s with wait := true, wreg := x }.setPc (s.pc - 2#16)) := rfl
  refine ⟨fun x s => ?instruction, fun x keypad s hloaded hwait hword => ?wholeCycle⟩
  case instruction => exact ⟨_, hexec x s, rfl, rfl, rfl, (s.withWait_frame true x).trans (State.setPc_frame _ _)⟩
  case wholeCycle =>
    have hdecode : decodeWord s.fetchWord = .ok (.ldVxK x) := hword ▸ decodeWord_encode_ldVxK x
    rw [cycle_of_decode keypad hloaded hwait hdecode, hexec]
    exact ⟨_, rfl, rfl, rfl, s.fetched_pc_sub_two keypad, rfl⟩

/-! ## Cycles and the wait -/

/-- No instruction but `Fx0A` writes `WAIT` (R30, R205). -/
theorem exec_wait_cases {i : Instr} {s t : State} (h : exec i s = .next t) :
    t.wait = s.wait ∨ ∃ x, i = .ldVxK x := by
  cases i with
  | ldVxK x => exact .inr ⟨x, rfl⟩
  | seByte | sneByte | seReg | sneReg | skp | sknp => cases h; exact .inl (s.skipIf_wait _)
  | ret => cases h; unfold State.returnFrom; split <;> exact .inl rfl
  | call nnn => cases h; unfold State.callTo; split <;> exact .inl rfl
  | ldB x => cases h; rw [State.storeBytes_only_mem]; exact .inl rfl
  | ldMemVx x => cases h; rw [storeRegs_only_mem]; exact .inl rfl
  | ldVxMem x => cases h; rw [loadRegs_only_v]; exact .inl rfl
  | ldStVx x => cases h; rw [setSoundTimer, soundChanged, updateSoundTimer_eq]; exact .inl rfl
  | _ => cases h; exact .inl rfl

/-- A cycle leaves `WAIT` as it is, or sets it by executing an `Fx0A`, for which it was clear (R104, R208). -/
theorem cycle_wait_cases {keypad : Word} {s t : State} (h : cycle keypad s = .next t) :
    t.wait = s.wait ∨ s.wait = false ∧ ∃ x, decodeWord s.fetchWord = .ok (.ldVxK x) := by
  obtain ⟨rfl, -⟩ | ⟨-, hwait, u, hu, rfl⟩ := cycle_cases h
  · exact .inl rfl
  · unfold execOpcode at hu
    split at hu
    · next i hi =>
      obtain hsame | ⟨x, rfl⟩ := exec_wait_cases hu
      · exact .inl hsame
      · exact .inr ⟨hwait, x, hi⟩
    · cases hu
      exact .inl rfl

/-! ## The events that do not depend on the wait -/

theorem soundChanged_setWait (val : Byte) (c : Nat) (s : State) (wait : Bool) :
    soundChanged val c { s with wait } = { soundChanged val c s with wait } := by
  simp only [soundChanged, updateSoundTimer_eq]; rfl

theorem tick_setWait (s : State) (wait : Bool) : tick { s with wait } = { tick s with wait } := by
  rw [tick_eq, tick_eq]
  split
  · exact soundChanged_setWait _ _ s.ticked wait
  · rfl

theorem tickWhileDue_setWait (fuel : Nat) (s : State) (wait : Bool) :
    tickWhileDue fuel { s with wait } = { tickWhileDue fuel s with wait } := by
  induction fuel generalizing s with
  | zero => rfl
  | succ fuel ih =>
    unfold tickWhileDue
    split
    · rw [← ih, ← tick_setWait]
    · rfl

theorem advance_setWait (elapsed : Rat) (s : State) (wait : Bool) :
    advance elapsed { s with wait } = mapNext (fun t => { t with wait }) (advance elapsed s) := by
  unfold advance
  split
  · rfl
  · exact congrArg Host.Outcome.next (tickWhileDue_setWait _ { s with acc := s.acc + elapsed } wait)

theorem handleKeyDown_setWait (code : String) (s : State) (wait : Bool) :
    handleKeyDown code { s with wait } = { handleKeyDown code s with wait } := by
  unfold handleKeyDown keyDownIn
  split <;> rfl

theorem handleKeyUp_setWait (code : String) (s : State) (wait : Bool) :
    handleKeyUp code { s with wait } = { handleKeyUp code s with wait } := by
  unfold handleKeyUp keyUpIn
  split <;> rfl

theorem State.stopIfActive_setWait (s : State) (wait : Bool) :
    State.stopIfActive { s with wait } = { s.stopIfActive with wait } := by
  unfold State.stopIfActive
  split <;> rfl

theorem toggleMute_setWait (flag : Bool) (s : State) (wait : Bool) :
    toggleMute flag { s with wait } = { toggleMute flag s with wait } := by
  unfold toggleMute
  cases flag with
  | true =>
    have hstop := State.stopIfActive_setWait { s with muted := true } wait
    exact congrArg (fun t : State => { t with chan := .muted }.publishChannel) hstop
  | false =>
    simp only [Bool.false_eq_true, if_false]
    split
    · rfl
    · split <;> rfl

theorem loadTimers_setWait (d snd : Byte) (s : State) (wait : Bool) :
    loadTimers d snd { s with wait } = { loadTimers d snd s with wait } :=
  soundChanged_setWait snd s.cyc (State.emit { s with dt := d, st := snd } (.stagedTimers d snd)) wait

theorem setSoundTimer_setWait (val : Byte) (s : State) (wait : Bool) :
    setSoundTimer val { s with wait } = { setSoundTimer val s with wait } :=
  soundChanged_setWait val s.cyc (State.emit { s with st := val } (.stagedSound val)) wait

/-- The events of TMR, KBD and BEEP neither read nor write `WAIT` (R208, R271). -/
theorem perform_setWait {e : Event} (he : IndependentOfWait e) (s : State) (wait : Bool) :
    perform e { s with wait } = mapNext (fun t => { t with wait }) (perform e s) := by
  cases e with
  | reset | loadRom | executeCycles | setKeyState => exact he.elim
  | advance elapsed => exact advance_setWait elapsed s wait
  | forceTick => exact congrArg Host.Outcome.next (tick_setWait s wait)
  | loadTimers d snd => exact congrArg Host.Outcome.next (loadTimers_setWait d snd s wait)
  | setSoundTimer val => exact congrArg Host.Outcome.next (setSoundTimer_setWait val s wait)
  | handleKeyDown code => exact congrArg Host.Outcome.next (handleKeyDown_setWait code s wait)
  | handleKeyUp code => exact congrArg Host.Outcome.next (handleKeyUp_setWait code s wait)
  | toggleMute flag => exact congrArg Host.Outcome.next (toggleMute_setWait flag s wait)
  | setDelayTimer | buildProfile | hostPublish => rfl

/-- An event that would end alike whatever `WAIT` is leaves `WAIT` as it is. -/
theorem perform_keeps_wait {e : Event} {s t : State} (h : perform e s = .next t) (he : IndependentOfWait e) :
    t.wait = s.wait := by
  have hsame : perform e s = mapNext (fun t => { t with wait := s.wait }) (perform e s) := perform_setWait he s s.wait
  rw [h] at hsame
  injection hsame with hsame
  rw [hsame]

/-! ## The events of DEC -/

/-- A reset clears the wait, whatever its notification does to BEEP (R300). -/
theorem resetEvent_wait (s : State) : (resetEvent s).wait = false := by
  rw [resetEvent, loadTimers, soundChanged, updateSoundTimer_eq]; rfl

theorem loadRom_wait (bytes : List Byte) (s : State) : (loadRom bytes s).wait = false := by
  unfold loadRom
  split
  · exact resetEvent_wait s
  · rw [State.storeBytes_only_mem]
    exact resetEvent_wait s

/-- `setKeyState` does nothing, or it is a press and ends the wait, under either value of `KEYWAIT_RESUME` (R206). -/
theorem setKeyState_cases (k : Nibble) (pressed : Bool) (s : State) :
    setKeyState k pressed s = s ∨ pressed = true ∧ (setKeyState k pressed s).wait = false := by
  unfold setKeyState setKeyStateWith
  split
  · next hpress =>
    rw [Bool.and_eq_true] at hpress
    exact .inr ⟨hpress.2, by cases Config.keyWaitResume <;> rfl⟩
  · exact .inl rfl

/-- All that an event can do to `WAIT`: leave it, clear it as a key press, a reset or a load, or set it as a cycle that
executes an `Fx0A` (R208). -/
theorem perform_wait_cases {e : Event} {s t : State} (h : perform e s = .next t) :
    t.wait = s.wait ∨
    (t.wait = false ∧ ((∃ k, e = .setKeyState k true) ∨ e = .reset ∨ ∃ bytes, e = .loadRom bytes)) ∨
    (s.wait = false ∧ ∃ keypad n x, e = .executeCycles keypad (n + 1) ∧ decodeWord s.fetchWord = .ok (.ldVxK x)) := by
  cases e with
  | setKeyState k pressed =>
    cases h
    obtain hsame | ⟨rfl, hclear⟩ := setKeyState_cases k pressed s
    · exact .inl (congrArg State.wait hsame)
    · exact .inr (.inl ⟨hclear, .inl ⟨k, rfl⟩⟩)
  | reset =>
    cases h
    exact .inr (.inl ⟨resetEvent_wait s, .inr (.inl rfl)⟩)
  | loadRom bytes =>
    cases h
    exact .inr (.inl ⟨loadRom_wait bytes s, .inr (.inr ⟨bytes, rfl⟩)⟩)
  | executeCycles keypad n =>
    cases n with
    | zero => cases h; exact .inl rfl
    | succ n =>
      have hcycle : cycle keypad { s with inputs := cyclesLeft keypad n ++ s.inputs } = .next t :=
        requeue_eq_cyclesLeft s keypad n ▸ h
      obtain hsame | ⟨hwait, x, hdecode⟩ := cycle_wait_cases hcycle
      · exact .inl hsame
      · exact .inr (.inr ⟨hwait, keypad, n, x, rfl, hdecode⟩)
  | _ => exact .inl (perform_keeps_wait h trivial)

/-- Settles O40: a step performs one event, and what that event can do to the wait is known. -/
theorem onlyKeyPressOrResetLeavesWait : Obligations.OnlyKeyPressOrResetLeavesWait := by
  refine ⟨fun s t h => ?_, fun s waiting e he => perform_setWait he s waiting⟩
  obtain ⟨-, rfl⟩ | ⟨e, rest, hin, hperform⟩ := step_cases h
  · exact ⟨fun hs ht => (nomatch hs.symm.trans ht), fun hs ht => (nomatch hs.symm.trans ht)⟩
  obtain hsame | ⟨hclear, hevent⟩ | ⟨hwait, keypad, n, x, rfl, hdecode⟩ := perform_wait_cases hperform
  · exact ⟨fun hs ht => (nomatch hs.symm.trans (hsame.symm.trans ht)),
      fun hs ht => (nomatch hs.symm.trans (hsame.symm.trans ht))⟩
  · refine ⟨fun _ _ => ⟨rest, ?_⟩, fun _ ht => (nomatch ht.symm.trans hclear)⟩
    simpa [hin] using hevent
  · exact ⟨fun hs _ => (nomatch hs.symm.trans hwait), fun _ _ => ⟨keypad, n, rest, x, hin, hdecode⟩⟩

end Sys2Proof.Machine
end

section
/-! PROOFS. A tick (R231, R232) and the events of KBD (R252 to R256): what each writes, and that it writes nothing
else. -/

namespace Sys2Proof.Machine

/-! ## Frames of the writes -/

/-- A frame may be read with more fields than were written. -/
theorem UnchangedBut.mono {changed changed' : List Field} {s t : State} (hst : UnchangedBut changed s t)
    (hsub : changed ⊆ changed') : UnchangedBut changed' s t :=
  fun f hf => hst f fun hmem => hf (hsub hmem)

theorem State.withInputs_frame (s : State) (inputs : List Event) : UnchangedBut [.inputs] s { s with inputs } := by
  intro f hf
  cases f with
  | inputs => exact absurd (List.mem_singleton_self _) hf
  | mem | v => exact fun _ => rfl
  | _ => rfl

theorem State.emit_frame (s : State) (o : Output) : UnchangedBut [.outputs] s (s.emit o) := by
  intro f hf
  cases f with
  | outputs => exact absurd (List.mem_singleton_self _) hf
  | mem | v => exact fun _ => rfl
  | _ => rfl

theorem State.withHl_frame (s : State) (hl : Vector Bool 16) : UnchangedBut [.hl] s { s with hl } := by
  intro f hf
  cases f with
  | hl => exact absurd (List.mem_singleton_self _) hf
  | mem | v => exact fun _ => rfl
  | _ => rfl

theorem State.withGuide_frame (s : State) (guide : Option String) : UnchangedBut [.guide] s { s with guide } := by
  intro f hf
  cases f with
  | guide => exact absurd (List.mem_singleton_self _) hf
  | mem | v => exact fun _ => rfl
  | _ => rfl

/-- Before the notification a tick writes the timers, `CYC` and the output sequence (R231). -/
theorem State.ticked_frame (s : State) : UnchangedBut [.dt, .st, .cyc, .outputs] s s.ticked := by
  intro f hf
  cases f with
  | dt | st | cyc | outputs => exact absurd (by decide) hf
  | mem | v => exact fun _ => rfl
  | _ => rfl

/-! ## A tick -/

/-- A tick with the sound timer at 0 is silent (R231). -/
theorem tick_of_st_eq_zero {s : State} (hst : s.st = 0) : tick s = s.ticked := by
  rw [tick_eq, hst]
  exact if_neg (Nat.lt_irrefl 0)

/-- A tick with the sound timer running notifies BEEP after the publish, with the new `ST` and `CYC` (R231, R236). -/
theorem tick_of_st_ne_zero {s : State} (hst : s.st ≠ 0) :
    tick s = updateSoundTimer s.ticked.st s.ticked.cyc (s.ticked.emit (.soundChanged s.ticked.st s.ticked.cyc)) := by
  have hpos : 0 < s.st.toNat := Nat.pos_of_ne_zero fun h => hst (BitVec.eq_of_toNat_eq h)
  rw [tick_eq, if_pos hpos]
  rfl

/-- Settles O42: the state before BEEP runs is that of the publish, with the notification emitted when `ST` was
nonzero. -/
theorem tickOrder : Obligations.TickOrder := by
  intro s rest hin
  have hstep : step s = .next (tick { s with inputs := rest }) := step_of_inputs hin
  have hframe : UnchangedBut [.dt, .st, .cyc, .inputs, .outputs] s (State.ticked { s with inputs := rest }) :=
    ((s.withInputs_frame rest).trans (State.ticked_frame _)).mono (by decide)
  by_cases hst : s.st = 0
  · refine ⟨_, countDown_toNat s.dt, countDown_toNat s.st, rfl, rfl, ?_, hframe, ?_⟩
    · rw [if_pos hst, List.append_nil]
      rfl
    · rw [if_pos hst]
      exact hstep.trans (congrArg Host.Outcome.next (tick_of_st_eq_zero hst))
  · refine ⟨_, countDown_toNat s.dt, countDown_toNat s.st, rfl, rfl, ?_,
      (hframe.trans (State.emit_frame _ (.soundChanged (countDown s.st) (s.cyc + 1)))).mono (by decide), ?_⟩
    · rw [if_neg hst]
      rfl
    · rw [if_neg hst]
      exact hstep.trans (congrArg Host.Outcome.next (tick_of_st_ne_zero hst))

/-! ## The events of KBD -/

theorem handleKeyDown_frame (code : String) (s : State) : UnchangedBut [.hl, .guide] s (handleKeyDown code s) := by
  unfold handleKeyDown keyDownIn
  split
  · exact (s.withGuide_frame _).mono (by decide)
  · exact (s.withHl_frame _).mono (by decide)

theorem handleKeyUp_frame (code : String) (s : State) : UnchangedBut [.hl] s (handleKeyUp code s) := by
  unfold handleKeyUp keyUpIn
  split
  · exact .refl _ s
  · exact s.withHl_frame _

theorem buildProfile_frame (s : State) : UnchangedBut [.guide, .outputs] s (buildProfile s) :=
  (s.withGuide_frame none).trans (State.emit_frame _ _)

/-- The step of a `buildProfile` event builds the profile of the state with the event used up (R255). -/
theorem step_buildProfile {s : State} {rest : List Event} (hin : s.inputs = .buildProfile :: rest) :
    step s = .next (buildProfile { s with inputs := rest }) := step_of_inputs hin

/-- A run of one step more begins with the first step. -/
theorem run_succ_of_step {M : Host.Core} {s u : M.State} (k : Nat) (h : M.step s = .next u) :
    M.run (k + 1) s = M.run k u := by
  rw [Host.Core.run, h]

/-- Settles O53: the step emits the profile of the state and clears the latch, so that a second one returns none. -/
theorem profileConsumesGuidance : Obligations.ProfileConsumesGuidance := by
  intro s rest
  refine ⟨fun hin => ?one, fun hin => ?two⟩
  case one =>
    have hframe := (s.withInputs_frame rest).trans (buildProfile_frame _)
    exact ⟨_, step_buildProfile hin, rfl, rfl, rfl, hframe.mono (by decide)⟩
  case two =>
    have hsecond := step_buildProfile (s := buildProfile { s with inputs := .buildProfile :: rest }) (rest := rest) rfl
    have hrun := (run_succ_of_step (M := Sys2Proof.core) 1 (step_buildProfile hin)).trans (run_succ_of_step 0 hsecond)
    exact ⟨_, hrun, List.append_assoc s.outputs _ _⟩

/-- Settles O54: each step of KBD uses up its input and then writes within the frame of its event. -/
theorem keyboardIsIsolated : Obligations.KeyboardIsIsolated := by
  intro s t e rest hin hstep
  have hperform : perform e { s with inputs := rest } = .next t := (step_of_inputs hin).symm.trans hstep
  have hinput : UnchangedBut [.inputs] s { s with inputs := rest } := s.withInputs_frame rest
  refine ⟨?key, ?profile⟩
  case key =>
    rintro ⟨code, rfl | rfl⟩
    · cases hperform
      exact (hinput.trans (handleKeyDown_frame code _)).mono (by decide)
    · cases hperform
      exact (hinput.trans (handleKeyUp_frame code _)).mono (by decide)
  case profile =>
    rintro rfl
    cases hperform
    exact (hinput.trans (buildProfile_frame _)).mono (by decide)

end Sys2Proof.Machine
end

section
/-! PROOFS. `loadRom` (R301): a reset, and then either an error alone or the copy of the program to 0x200. -/

namespace Sys2Proof.Machine

theorem State.storeBytes_frame (s : State) (a : Nat) (bytes : List Byte) :
    UnchangedBut [.mem] s (s.storeBytes a bytes) := by
  rw [State.storeBytes_only_mem]
  exact s.withMem_frame _

theorem State.withLoaded_frame (s : State) (loaded : Bool) : UnchangedBut [.loaded] s { s with loaded } := by
  intro f hf
  cases f with
  | loaded => exact absurd (List.mem_singleton_self _) hf
  | mem | v => exact fun _ => rfl
  | _ => rfl

/-- A reset leaves memory at its reset contents, whatever its notification does to BEEP (R300). -/
theorem resetEvent_mem (s : State) : (resetEvent s).mem = State.reset.mem := by
  rw [resetEvent, loadTimers, soundChanged, updateSoundTimer_eq]; rfl

/-! ## The two outcomes of a load -/

section
variable {bytes : List Byte}

/-- A program that is too large is reported after the reset, and nothing is copied (R301, 90 C1). -/
theorem loadRom_of_tooLarge (s : State) (hlarge : romMax < bytes.length) :
    loadRom bytes s = (resetEvent s).emit (.loadResult .romTooLarge) := if_pos hlarge

/-- A program that fits is copied after the reset (R301). -/
theorem loadRom_of_fits (s : State) (hfits : bytes.length ≤ romMax) :
    loadRom bytes s =
      State.emit { (resetEvent s).storeBytes 0x200 bytes with loaded := true } (.loadResult .ok) :=
  if_neg (Nat.not_lt.mpr hfits)

theorem loadRom_loaded (s : State) (hfits : bytes.length ≤ romMax) : (loadRom bytes s).loaded = true := by
  rw [loadRom_of_fits s hfits]; rfl

theorem loadRom_outputs (s : State) (hfits : bytes.length ≤ romMax) :
    (loadRom bytes s).outputs = (resetEvent s).outputs ++ [.loadResult .ok] := by
  rw [loadRom_of_fits s hfits, State.storeBytes_only_mem]; rfl

/-- A program that fits ends at or before the last byte of memory, so that none of its bytes is dropped (R301, R64). -/
theorem readByte_loadRom (s : State) (hfits : bytes.length ≤ romMax) (a : Nat) :
    (loadRom bytes s).readByte a =
      if 0x200 ≤ a ∧ a < 0x200 + bytes.length then bytes.getD (a - 0x200) 0#8 else (resetEvent s).readByte a := by
  have hwf : (resetEvent s).mem.wf = true := (congrArg Memory.wf (resetEvent_mem s)).trans reset_memory_wf
  have hinMemory : (0x200 ≤ a ∧ a < 0x200 + bytes.length ∧ a < 4096) ↔ 0x200 ≤ a ∧ a < 0x200 + bytes.length := by
    unfold romMax at hfits
    omega
  have hcopied : (loadRom bytes s).readByte a = ((resetEvent s).storeBytes 0x200 bytes).readByte a := by
    rw [loadRom_of_fits s hfits]; rfl
  rw [hcopied, State.readByte_storeBytes hwf]
  simp only [hinMemory]

theorem loadRom_frame (s : State) (hfits : bytes.length ≤ romMax) :
    UnchangedBut [.mem, .loaded, .outputs] (resetEvent s) (loadRom bytes s) := by
  rw [loadRom_of_fits s hfits]
  exact ((State.storeBytes_frame _ _ _).trans (State.withLoaded_frame _ _)).trans (State.emit_frame _ _)

end

/-- Settles O57: both steps begin with the same reset, and what follows is one of the two outcomes of a load. -/
theorem loadRomIsAllOrNothing : Obligations.LoadRomIsAllOrNothing := by
  intro s bytes rest hin
  have hreset : step { s with inputs := .reset :: rest } = .next (resetEvent { s with inputs := rest }) :=
    step_of_inputs (e := .reset) (rest := rest) rfl
  have hload : step s = .next (loadRom bytes { s with inputs := rest }) := step_of_inputs hin
  refine ⟨_, _, hreset, hload, fun hlarge => ?tooLarge, fun hfits => ?fits⟩
  case tooLarge => exact loadRom_of_tooLarge _ hlarge
  case fits =>
    refine ⟨loadRom_loaded _ hfits, loadRom_outputs _ hfits, fun k hk => ?program, fun a houtside => ?other,
      loadRom_frame _ hfits⟩
    case program =>
      rw [readByte_loadRom _ hfits, if_pos (by omega), Nat.add_sub_cancel_left]
      exact List.getD_eq_getElem bytes 0#8 hk
    case other =>
      rw [readByte_loadRom _ hfits, if_neg (by omega)]

end Sys2Proof.Machine
end

section
/-! PROOFS. Decoding undoes encoding, and encoding undoes decoding (R81 to R85): each major opcode fixes a format, whose
fields the packed word gives back, and each switch inside a major opcode is one on the last field. -/

namespace Sys2Proof

theorem eq_ofNat_of_toNat_eq {width k : Nat} {b : BitVec width} (h : b.toNat = k) : b = BitVec.ofNat width k := by
  rw [← h, BitVec.ofNat_toNat, BitVec.setWidth_eq]

/-! ## Decoding what was encoded -/

theorem packAddr_zero_inj (nnn k : Addr) : packAddr 0x0#4 nnn = packAddr 0x0#4 k ↔ nnn = k :=
  ⟨fun h => by rw [← fieldNnn_packAddr 0x0#4 nnn, h, fieldNnn_packAddr], congrArg _⟩

/-- An operand of `SYS` other than those of rows 1 and 2 leaves the word to row 3 (R83, R121). -/
theorem decodeSys_packAddr {nnn : Addr} (hcls : nnn ≠ 0x0E0#12) (hret : nnn ≠ 0x0EE#12) :
    decodeSys (packAddr 0x0#4 nnn) = .sys nnn := by
  have hclsWord : packAddr 0x0#4 nnn ≠ 0x00E0#16 := fun h => hcls ((packAddr_zero_inj nnn 0x0E0#12).mp h)
  have hretWord : packAddr 0x0#4 nnn ≠ 0x00EE#16 := fun h => hret ((packAddr_zero_inj nnn 0x0EE#12).mp h)
  rw [decodeSys, if_neg hclsWord, if_neg hretWord, fieldNnn_packAddr]

/-- Settles O1: the fields of the packed opcode are the operands; only `SYS` shares its major opcode with other rows'
whole words. -/
theorem decodeOfEncode : Obligations.DecodeOfEncode := by
  intro i hwf
  cases i with
  | cls | ret => rfl
  | sys nnn =>
    simp only [Instr.wf, Bool.and_eq_true, bne_iff_ne] at hwf
    simp [encode, decodeWord, decodeSys_packAddr hwf.1 hwf.2]
  | jp | call | ldI | jpV0 => simp [encode, decodeWord]
  | seByte | sneByte | ldByte | addByte | rnd => simp [encode, decodeWord]
  | seReg | sneReg => simp [encode, decodeWord, decodeCompare]
  | ldReg | orReg | andReg | xorReg | addReg | subReg | shr | subnReg | shl => simp [encode, decodeWord, decodeAlu]
  | drw => simp [encode, decodeWord]
  | skp | sknp => simp [encode, decodeWord, decodeKey]
  | ldVxDt | ldVxK | ldDtVx | ldStVx | addI | ldF | ldB | ldMemVx | ldVxMem => simp [encode, decodeWord, decodeMisc]

theorem decodeBytes_encode {i : Instr} (hwf : i.wf = true) : decodeBytes (bytesOf (encode i)) = .ok i := by
  rw [bytesOf, decodeBytes, opcodeOf_bytesOf]
  exact decodeOfEncode i hwf

/-- Settles O5: the samples are the bytes of their instructions' opcodes. -/
theorem sampleOpcodesDecode : Obligations.SampleOpcodesDecode :=
  ⟨decodeBytes_encode (i := .cls) rfl, decodeBytes_encode (i := .call 0x20A#12) rfl,
    decodeBytes_encode (i := .ldByte 0x0#4 0xFF#8) rfl, decodeBytes_encode (i := .subReg 0x2#4 0x0#4) rfl,
    decodeBytes_encode (i := .drw 0x1#4 0x2#4 0x5#4) rfl, decodeBytes_encode (i := .ldVxK 0x2#4) rfl⟩

/-! ## Encoding what was decoded -/

theorem encode_decodeSys {w : Word} (hhi : fieldHi w = 0x0#4) :
    encode (decodeSys w) = w ∧ (decodeSys w).wf = true := by
  have hpack : packAddr 0x0#4 (fieldNnn w) = w := hhi ▸ packAddr_fields w
  unfold decodeSys
  split_ifs with hcls hret
  · exact ⟨hcls.symm, rfl⟩
  · exact ⟨hret.symm, rfl⟩
  · refine ⟨hpack, ?_⟩
    simp only [Instr.wf, Bool.and_eq_true, bne_iff_ne]
    exact ⟨fun h => hcls (by rw [← hpack, h]; rfl), fun h => hret (by rw [← hpack, h]; rfl)⟩

theorem encode_decodeAlu {x y : Reg} {n : Nibble} {i : Instr} (h : decodeAlu x y n = .ok i) :
    encode i = packNibble 0x8#4 x y n ∧ i.wf = true := by
  revert h
  fun_cases decodeAlu x y n <;> rintro ⟨⟩ <;> exact ⟨by rw [eq_ofNat_of_toNat_eq ‹n.toNat = _›]; rfl, rfl⟩

theorem encode_decodeKey {x : Reg} {kk : Byte} {i : Instr} (h : decodeKey x kk = .ok i) :
    encode i = packByte 0xE#4 x kk ∧ i.wf = true := by
  revert h
  fun_cases decodeKey x kk <;> rintro ⟨⟩ <;> exact ⟨by rw [eq_ofNat_of_toNat_eq ‹kk.toNat = _›]; rfl, rfl⟩

theorem encode_decodeMisc {x : Reg} {kk : Byte} {i : Instr} (h : decodeMisc x kk = .ok i) :
    encode i = packByte 0xF#4 x kk ∧ i.wf = true := by
  revert h
  fun_cases decodeMisc x kk <;> rintro ⟨⟩ <;> exact ⟨by rw [eq_ofNat_of_toNat_eq ‹kk.toNat = _›]; rfl, rfl⟩

theorem decodeCompare_eq_ok {n : Nibble} {i j : Instr} (h : decodeCompare n j = .ok i) : n = 0#4 ∧ i = j := by
  unfold decodeCompare at h
  split_ifs at h with hn
  exact ⟨hn, (Except.ok.inj h).symm⟩

/-- Settles O2: a word is packed from its fields, and each branch of the switch keeps those of its format. -/
theorem encodeOfDecode : Obligations.EncodeOfDecode := by
  intro w i h
  have haddr := packAddr_fields w
  have hbyte := packByte_fields w
  have hnibble := packNibble_fields w
  revert h
  fun_cases decodeWord w
  case case1 hk => rintro ⟨⟩; exact encode_decodeSys (eq_ofNat_of_toNat_eq hk)
  case case2 hk | case3 hk | case11 hk | case12 hk =>
    rintro ⟨⟩; rw [eq_ofNat_of_toNat_eq hk] at haddr; exact ⟨haddr, rfl⟩
  case case4 hk | case5 hk | case7 hk | case8 hk | case13 hk =>
    rintro ⟨⟩; rw [eq_ofNat_of_toNat_eq hk] at hbyte; exact ⟨hbyte, rfl⟩
  case case14 hk => rintro ⟨⟩; rw [eq_ofNat_of_toNat_eq hk] at hnibble; exact ⟨hnibble, rfl⟩
  case case6 hk | case10 hk =>
    intro h
    obtain ⟨hn, rfl⟩ := decodeCompare_eq_ok h
    rw [eq_ofNat_of_toNat_eq hk, hn] at hnibble
    exact ⟨hnibble, rfl⟩
  case case9 hk => intro h; rw [eq_ofNat_of_toNat_eq hk] at hnibble; exact hnibble ▸ encode_decodeAlu h
  case case15 hk => intro h; rw [eq_ofNat_of_toNat_eq hk] at hbyte; exact hbyte ▸ encode_decodeKey h
  case case16 =>
    have hk : (fieldHi w).toNat = 0xF := by grind [(fieldHi w).isLt]
    intro h; rw [eq_ofNat_of_toNat_eq hk] at hbyte; exact hbyte ▸ encode_decodeMisc h

/-! ## What no branch selects (R85) -/

theorem decodeCompare_isError (n : Nibble) (i : Instr) : (∃ r, decodeCompare n i = .error r) ↔ n ≠ 0#4 := by
  unfold decodeCompare
  split_ifs with hn <;> simp [hn]

theorem decodeAlu_isError (x y : Reg) (n : Nibble) :
    (∃ r, decodeAlu x y n = .error r) ↔ 8 ≤ n.toNat ∧ n ≠ 0xE#4 := by
  fun_cases decodeAlu x y n
  case case10 => simp_all [BitVec.toNat_eq]; omega
  all_goals simp_all [BitVec.toNat_eq]

theorem decodeKey_isError (x : Reg) (kk : Byte) :
    (∃ r, decodeKey x kk = .error r) ↔ kk ≠ 0x9E#8 ∧ kk ≠ 0xA1#8 := by
  fun_cases decodeKey x kk <;> simp_all [BitVec.toNat_eq]

theorem decodeMisc_isError (x : Reg) (kk : Byte) :
    (∃ r, decodeMisc x kk = .error r) ↔
      kk ∉ [0x07#8, 0x0A#8, 0x15#8, 0x18#8, 0x1E#8, 0x29#8, 0x33#8, 0x55#8, 0x65#8] := by
  fun_cases decodeMisc x kk <;> simp_all [BitVec.toNat_eq]

/-- The words that the decoder rejects are those of R85, by their major opcode. -/
theorem decodeWord_isError (w : Word) : (∃ r, decodeWord w = .error r) ↔ Machine.UnassignedWord w := by
  unfold Machine.UnassignedWord
  fun_cases decodeWord w
  case case6 hk | case10 hk => simp [eq_ofNat_of_toNat_eq hk, decodeCompare_isError]
  case case9 hk => simp [eq_ofNat_of_toNat_eq hk, decodeAlu_isError]
  case case15 hk => simp [eq_ofNat_of_toNat_eq hk, decodeKey_isError]
  case case16 =>
    have hk : (fieldHi w).toNat = 0xF := by grind [(fieldHi w).isLt]
    simp [eq_ofNat_of_toNat_eq hk, decodeMisc_isError]
  all_goals simp [eq_ofNat_of_toNat_eq ‹(fieldHi w).toNat = _›]

end Sys2Proof
end

section
/-! PROOFS. The cycle (R100 to R107): what the fetch writes, what every cycle that is not skipped ends with, and that a cycle
does not look at the pending inputs, so that an `executeCycles` event is its cycles in sequence. -/

namespace Sys2Proof.Machine

/-! ## The fetch (R102) -/

theorem State.fetched_frame (s : State) (keypad : Word) :
    UnchangedBut [.opc, .pc, .keypad] s (s.fetched keypad) := by
  intro f hf
  cases f with
  | opc | pc | keypad => exact absurd (by decide) hf
  | mem | v => exact fun _ => rfl
  | _ => rfl

/-- The reduced address plus 2 is at most 4096, so it is written as it is. -/
theorem State.fetched_pc_toNat (s : State) (keypad : Word) :
    (s.fetched keypad).pc.toNat = s.pc.toNat % 4095 + 2 := by
  rw [State.fetched_pc, State.fetchAddress, BitVec.toNat_ofNat]
  omega

/-- Settles O6: the opcode is the two bytes at the fetch address, which is at most 4094. -/
theorem fetchIsBigEndianModulo4095 : Obligations.FetchIsBigEndianModulo4095 := by
  intro s keypad
  have hpc := s.fetched_pc_toNat keypad
  exact ⟨opcodeOf_toNat _ _, hpc, by omega, by omega, rfl, s.fetched_frame keypad⟩

/-! ## A cycle that is not skipped -/

/-- Settles O7: the fetch of the cycle does not depend on the inputs that are left. -/
theorem stepRunsDecodedInstruction : Obligations.StepRunsDecodedInstruction := by
  intro s keypad n rest i hin hloaded hwait hdecode
  rw [step_executeCycles_succ hin]
  exact cycle_of_decode keypad hloaded hwait hdecode

/-- A cycle that fetches an unassigned opcode stages what the fetch has left (R85). -/
theorem cycle_of_unassigned {s : State} (keypad : Word) (hloaded : s.loaded = true) (hwait : s.wait = false)
    (hword : UnassignedWord s.fetchWord) : cycle keypad s = .next (s.fetched keypad).stageDec := by
  obtain ⟨r, hr⟩ := (decodeWord_isError _).mpr hword
  simp [cycle, execOpcode, execUnassigned, mapNext, hloaded, hwait, hr]

/-- Settles O4: the rejects of each switch of R84 are those of R85, and the cycle is the fetch and the staging. -/
theorem unassignedOpcodesAreIgnored : Obligations.UnassignedOpcodesAreIgnored := by
  refine ⟨decodeWord_isError, fun s keypad hloaded hwait hword => ?_⟩
  exact ⟨_, cycle_of_unassigned keypad hloaded hwait hword, rfl, s.fetched_pc_toNat keypad, rfl, rfl,
    (s.fetched_frame keypad).trans (State.emit_frame _ _)⟩

/-- What an opcode does: its instruction's meaning, or nothing when it is unassigned (R85, R103). -/
theorem execOpcode_cases {s t : State} (h : execOpcode s = .next t) :
    (∃ i, decodeWord s.opc = .ok i ∧ exec i s = .next t) ∨ t = s := by
  unfold execOpcode at h
  split at h
  · next i hi => exact .inl ⟨i, hi, h⟩
  · cases h; exact .inr rfl

theorem SameBeyondProgram.refl (s : State) : SameBeyondProgram s s := ⟨rfl, rfl, rfl, rfl, rfl, rfl, rfl, rfl, rfl⟩

theorem execOpcode_sameBeyondProgram {s t : State} (h : execOpcode s = .next t) : SameBeyondProgram s t := by
  obtain ⟨i, -, hi⟩ | rfl := execOpcode_cases h
  · exact exec_sameBeyondProgram hi
  · exact .refl _

/-- Settles O9: the staging is the last output, and no instruction writes `OPC` or `CYC`. -/
theorem cycleStagesItsRegisters : Obligations.CycleStagesItsRegisters := by
  intro keypad s t h hloaded hwait
  obtain ⟨-, hskip⟩ | ⟨-, -, u, hu, rfl⟩ := cycle_cases h
  · simp [hloaded, hwait] at hskip
  · have hsame := execOpcode_sameBeyondProgram hu
    exact ⟨⟨u.outputs, rfl⟩, by rw [State.stageDec_outputs, snapshotAfter_append]; rfl, hsame.opc, hsame.cyc⟩

/-- One step of an `executeCycles` event is nothing, or one cycle with other inputs left (R100). -/
theorem executeCycles_cases {keypad : Word} {n : Nat} {s t : State} (h : executeCycles keypad n s = .next t) :
    t = s ∨ ∃ inputs, cycle keypad { s with inputs } = .next t := by
  cases n with
  | zero => cases h; exact .inl rfl
  | succ n =>
    rw [executeCycles, requeue_eq_cyclesLeft] at h
    exact .inr ⟨_, h⟩

/-! ## No next state (R106, R221, R230) -/

/-- An event has a next state, or it is an `advance` of a negative time. -/
theorem perform_has_next (e : Event) (s : State) :
    (∃ t, perform e s = .next t) ∨ ∃ elapsed, e = .advance elapsed ∧ elapsed < 0 := by
  cases e with
  | executeCycles keypad n =>
    cases n with
    | zero => exact .inl ⟨s, rfl⟩
    | succ n => exact .inl (cycle_has_next keypad _)
  | advance elapsed =>
    by_cases hneg : elapsed < 0
    · exact .inr ⟨elapsed, rfl, hneg⟩
    · exact .inl ⟨_, if_neg hneg⟩
  | _ => exact .inl ⟨_, rfl⟩

/-- Settles O11: a step without an input has a next state too. -/
theorem onlyNegativeElapsedStops : Obligations.OnlyNegativeElapsedStops := by
  refine ⟨exec_has_next, fun s => ?_⟩
  cases hin : s.inputs with
  | nil => exact .inl ⟨s, by rw [step, performNext, hin]⟩
  | cons e rest =>
    rw [step_of_inputs hin]
    obtain hnext | ⟨elapsed, rfl, hneg⟩ := perform_has_next e { s with inputs := rest }
    · exact .inl hnext
    · exact .inr ⟨elapsed, rest, rfl, hneg, if_pos hneg⟩

/-! ## The pending inputs -/

theorem State.storeByte_setInputs (s : State) (a : Nat) (val : Byte) (inputs : List Event) :
    State.storeByte { s with inputs } a val = { s.storeByte a val with inputs } := by
  unfold State.storeByte
  split <;> rfl

theorem State.storeBytes_setInputs (s : State) (a : Nat) (bytes : List Byte) (inputs : List Event) :
    State.storeBytes { s with inputs } a bytes = { s.storeBytes a bytes with inputs } := by
  induction bytes generalizing s a with
  | nil => rfl
  | cons val bytes ih => rw [State.storeBytes, State.storeByte_setInputs, ih]; rfl

theorem storeRegs_setInputs (base : Addr) (k count : Nat) (s : State) (inputs : List Event) :
    storeRegs base k count { s with inputs } = { storeRegs base k count s with inputs } := by
  induction count generalizing k s with
  | zero => rfl
  | succ count ih =>
    unfold storeRegs
    split
    · rw [← ih, ← State.storeByte_setInputs]; rfl
    · rfl

theorem loadRegs_setInputs (base : Addr) (k count : Nat) (s : State) (inputs : List Event) :
    loadRegs base k count { s with inputs } = { loadRegs base k count s with inputs } := by
  induction count generalizing k s with
  | zero => rfl
  | succ count ih =>
    unfold loadRegs
    split
    · rw [← ih]; rfl
    · rfl

theorem State.skipIf_setInputs (s : State) (cond : Bool) (inputs : List Event) :
    State.skipIf { s with inputs } cond = { s.skipIf cond with inputs } := by
  cases cond <;> rfl

theorem setSoundTimer_setInputs (val : Byte) (s : State) (inputs : List Event) :
    setSoundTimer val { s with inputs } = { setSoundTimer val s with inputs } := by
  simp only [setSoundTimer, soundChanged, updateSoundTimer_eq]; rfl

/-- No instruction looks at the pending inputs (R227). -/
theorem exec_setInputs (i : Instr) (s : State) (inputs : List Event) :
    exec i { s with inputs } = mapNext (fun t => { t with inputs }) (exec i s) := by
  cases i with
  | seByte | sneByte | seReg | sneReg | skp | sknp => exact congrArg Host.Outcome.next (State.skipIf_setInputs _ _ _)
  | ret =>
    refine congrArg Host.Outcome.next ?_
    unfold State.returnFrom
    split <;> rfl
  | call nnn =>
    refine congrArg Host.Outcome.next ?_
    unfold State.callTo
    split <;> rfl
  | ldB x => exact congrArg Host.Outcome.next (State.storeBytes_setInputs _ _ _ _)
  | ldMemVx x =>
    exact congrArg (fun t => Host.Outcome.next (t.setI (s.i.toNat + x.toNat + 1))) (storeRegs_setInputs _ _ _ _ _)
  | ldVxMem x =>
    exact congrArg (fun t => Host.Outcome.next (t.setI (s.i.toNat + x.toNat + 1))) (loadRegs_setInputs _ _ _ _ _)
  | ldStVx x => exact congrArg Host.Outcome.next (setSoundTimer_setInputs _ _ _)
  | _ => rfl

theorem execOpcode_setInputs (s : State) (inputs : List Event) :
    execOpcode { s with inputs } = mapNext (fun t => { t with inputs }) (execOpcode s) := by
  unfold execOpcode
  cases decodeWord s.opc with
  | ok i => exact exec_setInputs i s inputs
  | error r => rfl

/-- A cycle neither reads nor writes the pending inputs. -/
theorem cycle_setInputs (keypad : Word) (s : State) (inputs : List Event) :
    cycle keypad { s with inputs } = mapNext (fun t => { t with inputs }) (cycle keypad s) := by
  unfold cycle
  split
  · rfl
  · split
    · rfl
    · obtain ⟨t, ht⟩ := execOpcode_has_next (s.fetched keypad)
      have hinputs := execOpcode_setInputs (s.fetched keypad) inputs
      rw [ht] at hinputs ⊢
      exact congrArg (mapNext State.stageDec) hinputs

theorem cycle_keeps_inputs {keypad : Word} {s t : State} (h : cycle keypad s = .next t) : t.inputs = s.inputs := by
  have hsame : cycle keypad s = mapNext (fun t => { t with inputs := s.inputs }) (cycle keypad s) :=
    cycle_setInputs keypad s s.inputs
  rw [h] at hsame
  injection hsame with hsame
  rw [hsame]

/-! ## An `executeCycles` event -/

theorem core_run_succ {s u : State} (k : Nat) (h : step s = .next u) :
    Host.Core.run Sys2Proof.core (k + 1) s = Host.Core.run Sys2Proof.core k u :=
  run_succ_of_step (M := Sys2Proof.core) k h

/-- Running an event of `n + 1` cycles for `n + 1` steps is running the cycles one after the other (R100). -/
theorem run_executeCycles (keypad : Word) (n : Nat) (s : State) (rest : List Event) :
    Host.Core.run Sys2Proof.core (n + 1) { s with inputs := .executeCycles keypad (n + 1) :: rest } =
      cyclesInSequence keypad (n + 1) { s with inputs := rest } := by
  induction n generalizing s with
  | zero =>
    obtain ⟨t, ht⟩ := cycle_has_next keypad { s with inputs := rest }
    have hstep : step { s with inputs := .executeCycles keypad 1 :: rest } = .next t :=
      (step_executeCycles_succ rfl).trans ht
    refine (core_run_succ 0 hstep).trans ?_
    rw [cyclesInSequence, ht]
    rfl
  | succ n ih =>
    obtain ⟨t, ht⟩ := cycle_has_next keypad { s with inputs := rest }
    have hinputs : t.inputs = rest := cycle_keeps_inputs ht
    have hrest : t = { t with inputs := rest } := by rw [← hinputs]
    have hstep : step { s with inputs := .executeCycles keypad (n + 2) :: rest } =
        .next { t with inputs := .executeCycles keypad (n + 1) :: rest } := by
      rw [step_executeCycles_succ rfl]
      exact (cycle_setInputs keypad { s with inputs := rest } _).trans (by rw [ht]; rfl)
    refine (core_run_succ (n + 1) hstep).trans ?_
    rw [cyclesInSequence, ht, ih, ← hrest]

/-- Settles O10: with no cycles the one step uses up the event. -/
theorem executeCyclesRunsItsCycles : Obligations.ExecuteCyclesRunsItsCycles := by
  intro s keypad n rest
  cases n with
  | zero => rfl
  | succ n => exact run_executeCycles keypad n s rest

end Sys2Proof.Machine
end

section
/-! PROOFS. `JP V0`, `CALL` and `RET` (R122, R124, R129, R130). -/

namespace Sys2Proof.Machine

/-- The sum of a 12-bit address and a byte fits in 16 bits, so it is not reduced (R129, 92 D14). -/
theorem targetPlus_toNat (nnn : Addr) (offset : Byte) : (targetPlus nnn offset).toNat = nnn.toNat + offset.toNat := by
  have hnnn := nnn.isLt
  have hoffset := offset.isLt
  rw [targetPlus, BitVec.toNat_add, BitVec.toNat_setWidth, BitVec.toNat_setWidth]
  omega

/-- Settles O13: `JP V0` is one write to `PC`. -/
theorem jumpV0AddsV0 : Obligations.JumpV0AddsV0 := by
  intro nnn s
  have hexec : exec (.jpV0 nnn) s = .next (s.setPc (targetPlus nnn (s.reg 0#4))) := rfl
  exact ⟨_, hexec, targetPlus_toNat _ _, s.setPc_frame _⟩

/-! ## The return stack -/

theorem State.withStackSpPc_frame (s : State) (stack : Vector Word 16) (sp : Fin 17) (pc : Word) :
    UnchangedBut [.stack, .sp, .pc] s { s with stack, sp, pc } := by
  intro f hf
  cases f with
  | stack | sp | pc => exact absurd (by decide) hf
  | mem | v => exact fun _ => rfl
  | _ => rfl

theorem State.withSpPc_frame (s : State) (sp : Fin 17) (pc : Word) : UnchangedBut [.sp, .pc] s { s with sp, pc } := by
  intro f hf
  cases f with
  | sp | pc => exact absurd (by decide) hf
  | mem | v => exact fun _ => rfl
  | _ => rfl

theorem State.callTo_of_full {s : State} (target : Word) (hsp : ¬ s.sp.val < 16) : s.callTo target = s := dif_neg hsp

theorem State.callTo_of_room {s : State} (target : Word) (hsp : s.sp.val < 16) :
    s.callTo target =
      { s with stack := s.stack.set s.sp.val s.pc, sp := ⟨s.sp.val + 1, Nat.succ_lt_succ hsp⟩, pc := target } :=
  dif_pos hsp

theorem State.returnFrom_of_empty {s : State} (hsp : s.sp.val = 0) : s.returnFrom = s := dif_neg (by omega)

theorem State.returnFrom_of_entry {s : State} {k : Fin 16} (hsp : s.sp.val = k.val + 1) :
    s.returnFrom = { s with sp := ⟨k.val, by omega⟩, pc := s.stack[k] } := by
  rw [State.returnFrom, dif_pos (by omega)]
  simp [hsp]

/-- The pushed entry is `PC`, and every other entry keeps its value. -/
theorem getElem_push (stack : Vector Word 16) (pc : Word) {sp : Nat} (hsp : sp < 16) (k : Fin 16) :
    (stack.set sp pc hsp)[k] = if k.val = sp then pc else stack[k] := by
  simp only [Fin.getElem_fin, Vector.getElem_set, eq_comm]

/-- Settles O14: with room a call writes the stack, `SP` and `PC`, else nothing. -/
theorem callPushesAndJumps : Obligations.CallPushesAndJumps := by
  intro nnn s
  have hexec : exec (.call nnn) s = .next (s.callTo (targetOf nnn)) := rfl
  refine ⟨_, hexec, fun hfull => ?full, fun hroom => ?room⟩
  case full =>
    rw [State.callTo_of_full _ (by omega)]
    exact .refl _ s
  case room =>
    rw [State.callTo_of_room _ hroom]
    exact ⟨rfl, targetOf_toNat nnn, getElem_push s.stack s.pc hroom, s.withStackSpPc_frame _ _ _⟩

/-- Settles O15: with an entry a return writes `SP` and `PC`, else nothing. -/
theorem retPopsPc : Obligations.RetPopsPc := by
  intro s
  have hexec : exec .ret s = .next s.returnFrom := rfl
  refine ⟨_, hexec, fun hempty => ?empty, fun k hentry => ?entry⟩
  case empty =>
    rw [State.returnFrom_of_empty hempty]
    exact .refl _ s
  case entry =>
    rw [State.returnFrom_of_entry hentry]
    exact ⟨rfl, rfl, s.withSpPc_frame _ _⟩

/-- Settles O16: the entry that a return pops is the one that the call has pushed. -/
theorem returnUndoesCall : Obligations.ReturnUndoesCall := by
  intro nnn s t u hroom hcall hstack hsp
  have hexec : exec .ret u = .next u.returnFrom := rfl
  have ht : s.callTo (targetOf nnn) = t := Host.Outcome.next.inj hcall
  rw [State.callTo_of_room _ hroom] at ht
  subst ht
  have hentry : u.sp.val = (⟨s.sp.val, hroom⟩ : Fin 16).val + 1 := congrArg Fin.val hsp
  rw [State.returnFrom_of_entry hentry, hstack] at hexec
  exact ⟨_, hexec, (getElem_push _ _ hroom _).trans (if_pos rfl), rfl⟩

end Sys2Proof.Machine
end

section
/-! PROOFS. The arithmetic instructions, the shifts and `RND` (R148 to R153): each result and flag as a number. -/

namespace Sys2Proof.Machine

/-! ## Results and flags as numbers -/

theorem flagByte_decide (p : Prop) [Decidable p] : flagByte (decide p) = if p then 1 else 0 := by
  by_cases hp : p <;> simp [flagByte, hp]

theorem flagByte_toNat (cond : Bool) : (flagByte cond).toNat = cond.toNat := by cases cond <;> rfl

theorem byte_add_toNat (a b : Byte) : (a + b).toNat = (a.toNat + b.toNat) % 256 := BitVec.toNat_add a b

theorem byte_sub_toNat (a b : Byte) : (a - b).toNat = (256 + a.toNat - b.toNat) % 256 := by
  have hb := b.isLt
  rw [BitVec.toNat_sub]
  omega

theorem byte_shiftRight_toNat (a : Byte) : (a >>> 1).toNat = a.toNat / 2 := by
  rw [BitVec.toNat_ushiftRight, Nat.shiftRight_one]

theorem byte_shiftLeft_toNat (a : Byte) : (a <<< 1).toNat = 2 * a.toNat % 256 := by
  rw [BitVec.toNat_shiftLeft, Nat.shiftLeft_eq]
  omega

theorem shiftedOutRight_toNat (a : Byte) : (shiftedOutRight a).toNat = a.toNat % 2 := by
  rw [shiftedOutRight, BitVec.getLsbD, Nat.toNat_testBit, Nat.pow_zero, Nat.div_one]

theorem shiftedOutLeft_toNat (a : Byte) : (shiftedOutLeft a).toNat = a.toNat / 128 := by
  have ha := a.isLt
  rw [shiftedOutLeft, BitVec.getLsbD, Nat.toNat_testBit]
  omega

/-! ## The obligations -/

/-- Settles O20: each writes its result and then its flag. -/
theorem addSubWriteResultThenFlag : Obligations.AddSubWriteResultThenFlag := by
  intro x y s
  have hadd : exec (.addReg x y) s = .next (s.setResult x (s.reg x + s.reg y) _) := rfl
  have hsub : exec (.subReg x y) s = .next (s.setResult x (s.reg x - s.reg y) _) := rfl
  have hsubn : exec (.subnReg x y) s = .next (s.setResult x (s.reg y - s.reg x) _) := rfl
  obtain ⟨t, ht, hresult, hflag, hframe⟩ := exec_setResult_writes hadd
  obtain ⟨t', ht', hresult', hflag', hframe'⟩ := exec_setResult_writes hsub
  obtain ⟨t'', ht'', hresult'', hflag'', hframe''⟩ := exec_setResult_writes hsubn
  exact ⟨⟨t, ht, fun hx => hresult hx ▸ byte_add_toNat _ _, hflag.trans (flagByte_decide _), hframe⟩,
    ⟨t', ht', fun hx => hresult' hx ▸ byte_sub_toNat _ _, hflag'.trans (flagByte_decide _), hframe'⟩,
    ⟨t'', ht'', fun hx => hresult'' hx ▸ byte_sub_toNat _ _, hflag''.trans (flagByte_decide _), hframe''⟩⟩

/-- Settles O21: each writes the shifted byte and then the bit shifted out, of which neither depends on `V[y]`. -/
theorem shiftsIgnoreY : Obligations.ShiftsIgnoreY := by
  intro x y s
  have hshr : exec (.shr x y) s = .next (s.setResult x (s.reg x >>> 1) (flagByte (shiftedOutRight (s.reg x)))) := rfl
  have hshl : exec (.shl x y) s = .next (s.setResult x (s.reg x <<< 1) (flagByte (shiftedOutLeft (s.reg x)))) := rfl
  obtain ⟨t, ht, hresult, hflag, hframe⟩ := exec_setResult_writes hshr
  obtain ⟨t', ht', hresult', hflag', hframe'⟩ := exec_setResult_writes hshl
  exact ⟨⟨t, ht, fun hx => hresult hx ▸ byte_shiftRight_toNat _,
      by rw [hflag, flagByte_toNat, shiftedOutRight_toNat], hframe⟩,
    ⟨t', ht', fun hx => hresult' hx ▸ byte_shiftLeft_toNat _,
      by rw [hflag', flagByte_toNat, shiftedOutLeft_toNat], hframe'⟩⟩

theorem State.withDraws_frame (s : State) (draws : Nat) : UnchangedBut [.draws] s { s with draws } := by
  intro f hf
  cases f with
  | draws => exact absurd (List.mem_singleton_self _) hf
  | mem | v => exact fun _ => rfl
  | _ => rfl

/-- Settles O22: a draw moves the counter on, and one register is written with the masked byte. -/
theorem randomByteIsMasked : Obligations.RandomByteIsMasked := by
  intro x kk s
  have hexec : exec (.rnd x kk) s =
      .next (State.setReg { s with draws := s.draws + 1 } x (Config.randomByte s.draws &&& kk)) := rfl
  refine ⟨_, hexec, State.reg_setReg_self _ _ _, fun b hb => ?_, rfl, State.setReg_regs _ _ _,
    ((s.withDraws_frame _).trans (State.setReg_frame _ _ _)).mono (by decide)⟩
  rw [State.reg_setReg_self, BitVec.getLsbD_and, Bool.and_eq_true] at hb
  exact hb.2

end Sys2Proof.Machine
end

section
/-! PROOFS. The index register and what memory gives back (R170 to R175, R28, R69, R73). -/

namespace Sys2Proof.Machine

theorem lowNibble_toNat (val : Byte) : (lowNibble val).toNat = val.toNat % 16 := by
  rw [lowNibble, BitVec.extractLsb'_toNat, Nat.shiftRight_zero]

/-- Settles O23: each is one write to `I`, which is taken modulo 4096. -/
theorem indexWritesAreReduced : Obligations.IndexWritesAreReduced := by
  intro x nnn s
  have hldI : exec (.ldI nnn) s = .next (s.setI nnn.toNat) := rfl
  have haddI : exec (.addI x) s = .next (s.setI (s.i.toNat + (s.reg x).toNat)) := rfl
  have hldF : exec (.ldF x) s = .next (s.setI (glyphAddress Config.fontBase.val (lowNibble (s.reg x)))) := rfl
  have hnnn : BitVec.ofNat 12 nnn.toNat = nnn := by rw [BitVec.ofNat_toNat, BitVec.setWidth_eq]
  refine ⟨⟨_, hldI, hnnn, s.setI_frame _⟩, ⟨_, haddI, s.setI_i_toNat _, s.setI_frame _⟩,
    ⟨_, hldF, ?_, s.setI_frame _⟩⟩
  rw [State.setI_i_toNat, glyphAddress, lowNibble_toNat]

/-- Settles O29: a store within memory keeps the canonical form, and is read back. -/
theorem readAfterWrite : Obligations.ReadAfterWrite := by
  intro s a b val hwf ha
  exact ⟨State.storeByte_wf hwf a val, State.readByte_storeByte hwf ha b val⟩

/-- Settles O24: the three digits are stored at ascending addresses, as far as memory reaches. -/
theorem bcdStoresThreeDigits : Obligations.BcdStoresThreeDigits := by
  intro x s hwf
  have hexec : exec (.ldB x) s = .next (s.storeBytes s.i.toNat (decimalDigits (s.reg x))) := rfl
  have hi := s.i.isLt
  have hlen : (decimalDigits (s.reg x)).length = 3 := rfl
  refine ⟨_, hexec, ?_, fun h1 => ?_, fun h2 => ?_, fun a hother => ?_, s.storeBytes_frame _ _⟩ <;>
    rw [State.readByte_storeBytes hwf, hlen]
  · rw [if_pos (by omega), Nat.sub_self]
    rfl
  · rw [if_pos (by omega), Nat.add_sub_cancel_left]
    rfl
  · rw [if_pos (by omega), Nat.add_sub_cancel_left]
    rfl
  · refine if_neg fun hin => hother (a - s.i.toNat) ?_ ?_ ?_ <;> omega

/-- Settles O27: the load reads the addresses that the store has written. -/
theorem storeThenLoadRestoresRegisters : Obligations.StoreThenLoadRestoresRegisters := by
  intro x s t u hwf hstore hmem hi
  obtain ⟨t', ht', hstored, -⟩ := storeRegistersTruncates x s hwf
  obtain rfl : t' = t := Host.Outcome.next.inj (ht'.symm.trans hstore)
  obtain ⟨w, hw, hloaded, -⟩ := loadRegistersTruncates x u
  refine ⟨w, hw, fun r hrx hin => ?_⟩
  rw [hloaded, hi, if_pos ⟨hrx, hin⟩, State.readByte_congr hmem, hstored r hrx hin]

/-! ## Fetching what was stored (R73) -/

/-- A byte of memory is what a fetch has as its high byte at its address, and as its low byte one address below. -/
theorem State.fetchWord_bytes {u : State} {a val : Nat} (hread : (u.readByte a).toNat = val) :
    (u.fetchAddress = a → u.fetchWord.toNat / 256 = val) ∧
      (u.fetchAddress + 1 = a → u.fetchWord.toNat % 256 = val) := by
  have hword : u.fetchWord.toNat = 256 * (u.readByte u.fetchAddress).toNat + (u.readByte (u.fetchAddress + 1)).toNat :=
    opcodeOf_toNat _ _
  have hlow := (u.readByte (u.fetchAddress + 1)).isLt
  constructor
  · rintro rfl
    omega
  · rintro rfl
    omega

/-- Settles O28: the stores leave the registers or the digits at their addresses, and the fetch reads those. -/
theorem storedBytesAreFetched : Obligations.StoredBytesAreFetched := by
  intro x s t u hwf hmem
  refine ⟨fun hstore r hrx hin => ?registers, fun hstore k digit hdigit hin => ?digits⟩
  case registers =>
    obtain ⟨t', ht', hstored, -⟩ := storeRegistersTruncates x s hwf
    obtain rfl : t' = t := Host.Outcome.next.inj (ht'.symm.trans hstore)
    exact State.fetchWord_bytes (by rw [State.readByte_congr hmem, hstored r hrx hin])
  case digits =>
    obtain ⟨t', ht', hhundreds, htens, hones, -⟩ := bcdStoresThreeDigits x s hwf
    obtain rfl : t' = t := Host.Outcome.next.inj (ht'.symm.trans hstore)
    have hval := (s.reg x).isLt
    refine State.fetchWord_bytes ?_
    rw [State.readByte_congr hmem]
    simp only [List.mem_cons, Prod.mk.injEq, List.not_mem_nil, or_false] at hdigit
    obtain ⟨rfl, rfl⟩ | ⟨rfl, rfl⟩ | ⟨rfl, rfl⟩ := hdigit
    · rw [Nat.add_zero, hhundreds, BitVec.toNat_ofNat]
      omega
    · rw [htens hin, BitVec.toNat_ofNat]
      omega
    · rw [hones hin, BitVec.toNat_ofNat]
      omega

end Sys2Proof.Machine
end

section
/-! PROOFS. `DRW` and the render buffer (R191, R192): the cells a sprite covers, and the order of the buffer. -/

namespace Sys2Proof.Machine

/-! ## Cells by column and row -/

theorem cellIndex_of_lt {px py : Nat} (hpx : px < 64) (hpy : py < 32) :
    cellIndex px py = ⟨py * 64 + px, by omega⟩ := by
  rw [cellIndex, Fin.mk.injEq]
  omega

/-- Every place of the buffer is the cell of a column and a row. -/
theorem exists_cellIndex (k : Fin 2048) : ∃ px py, px < 64 ∧ py < 32 ∧ cellIndex px py = k := by
  refine ⟨k.val % 64, k.val / 64, by omega, by omega, ?_⟩
  rw [cellIndex_of_lt (by omega) (by omega), Fin.ext_iff]
  exact Nat.div_add_mod' _ _

/-- The cells a sprite covers, by column and row and by place. -/
theorem spriteCovers_iff (s : State) (x y : Reg) (n : Nibble) {px py : Nat} (hpx : px < 64) (hpy : py < 32) :
    SpriteCovers s x y n px py ↔
      RowsCover s.mem s.i (s.reg x).toNat (s.reg y).toNat 0 n.toNat (cellIndex px py) := by
  have hplace (col row : Nat) : cellIndex ((s.reg x).toNat + col) ((s.reg y).toNat + row) = cellIndex px py ↔
      ((s.reg x).toNat + col) % 64 = px ∧ ((s.reg y).toNat + row) % 32 = py := by
    rw [cellIndex_eq, Nat.mod_eq_of_lt hpx, Nat.mod_eq_of_lt hpy]
  constructor
  · rintro ⟨row, col, hrow, hcol, hmem, hpixel, hx, hy⟩
    exact ⟨row, Nat.zero_le _, by omega, hmem, col, hcol, hpixel, (hplace col row).mpr ⟨hx, hy⟩⟩
  · rintro ⟨row, -, hrow, hmem, col, hcol, hpixel, hcell⟩
    obtain ⟨hx, hy⟩ := (hplace col row).mp hcell
    exact ⟨row, col, by omega, hcol, hmem, hpixel, hx, hy⟩

/-- Which cells are covered depends on `I`, memory and the two coordinates. -/
theorem SpriteCovers.congr {s t : State} {x y : Reg} {n : Nibble} {px py : Nat} (hi : t.i = s.i)
    (hmem : ∀ a, t.readByte a = s.readByte a) (hx : t.reg x = s.reg x) (hy : t.reg y = s.reg y) :
    SpriteCovers t x y n px py ↔ SpriteCovers s x y n px py := by
  simp only [SpriteCovers, hi, hmem, hx, hy]

/-- The display and the collision flag that `DRW Vx, Vy, n` ends with (R191). -/
def State.drawn (s : State) (x y : Reg) (n : Nibble) : Cells × Bool :=
  drawRows s.mem s.i (s.reg x).toNat (s.reg y).toNat 0 n.toNat (s.disp, false)

/-! ## The obligations -/

/-- Settles O31: what drawing the rows does to the places, said by column and row. -/
theorem drawFlipsCoveredCells : Obligations.DrawFlipsCoveredCells := by
  intro x y n s
  have hexec : exec (.drw x y n) s =
      .next (State.setReg { s with disp := (s.drawn x y n).1 } regF (flagByte (s.drawn x y n).2)) := rfl
  have hrows : n.toNat ≤ 32 := by omega
  obtain ⟨hcells, hhit⟩ := drawRows_covers s.mem s.i (s.reg x).toNat (s.reg y).toNat 0 n.toNat hrows (s.disp, false)
  have hcollision : (s.drawn x y n).2 = true ↔
      ∃ px py, px < 64 ∧ py < 32 ∧ SpriteCovers s x y n px py ∧ s.cell px py = true := by
    rw [State.drawn, hhit, Bool.false_eq_true, false_or]
    constructor
    · rintro ⟨k, hcover, hset⟩
      obtain ⟨px, py, hpx, hpy, rfl⟩ := exists_cellIndex k
      exact ⟨px, py, hpx, hpy, (spriteCovers_iff s x y n hpx hpy).mpr hcover, hset⟩
    · rintro ⟨px, py, hpx, hpy, hcover, hset⟩
      exact ⟨_, (spriteCovers_iff s x y n hpx hpy).mp hcover, hset⟩
  refine ⟨_, hexec, fun px py hpx hpy => ?cells, fun hset => ?collision, fun hnone => ?noCollision,
    fun r hr _ => State.reg_setReg_ne _ _ hr,
    ((s.withDisp_frame _).trans (State.setReg_frame _ _ _)).mono (by decide)⟩
  case cells =>
    rw [spriteCovers_iff s x y n hpx hpy]
    exact hcells (cellIndex px py)
  case collision => rw [State.reg_setReg_self, hcollision.mpr hset]; rfl
  case noCollision => rw [State.reg_setReg_self, Bool.eq_false_iff.mpr (mt hcollision.mp hnone)]; rfl

/-- Settles O32: the second draw covers the same cells, for neither coordinate is in `VF`; each is flipped twice. -/
theorem drawingTwiceRestoresDisplay : Obligations.DrawingTwiceRestoresDisplay := by
  intro x y n s t u hx hy hfirst hsecond
  obtain ⟨t', ht', hcells, -, -, hregs, hframe⟩ := drawFlipsCoveredCells x y n s
  obtain rfl : t' = t := Host.Outcome.next.inj (ht'.symm.trans hfirst)
  obtain ⟨u', hu', hcells', hhit', hmiss', -, -⟩ := drawFlipsCoveredCells x y n t'
  obtain rfl : u' = u := Host.Outcome.next.inj (hu'.symm.trans hsecond)
  have hcover (px py : Nat) : SpriteCovers t' x y n px py ↔ SpriteCovers s x y n px py :=
    SpriteCovers.congr (hframe .i (by decide)) (hframe .mem (by decide)) (hregs x hx hx) (hregs y hy hy)
  have hcollision : (∃ px py, px < 64 ∧ py < 32 ∧ SpriteCovers t' x y n px py ∧ t'.cell px py = true) ↔
      ∃ px py, px < 64 ∧ py < 32 ∧ SpriteCovers s x y n px py ∧ s.cell px py = false := by
    refine exists₂_congr fun px py => and_congr_right fun hpx => and_congr_right fun hpy => ?_
    rw [hcover]
    refine and_congr_right fun h => ?_
    rw [(hcells px py hpx hpy).1 h, Bool.not_eq_true']
  rw [hcollision] at hhit' hmiss'
  refine ⟨cells_ext fun k => ?_, hhit', hmiss'⟩
  obtain ⟨px, py, hpx, hpy, rfl⟩ := exists_cellIndex k
  have hboth : u'.cell px py = s.cell px py := by
    by_cases h : SpriteCovers s x y n px py
    · rw [(hcells' px py hpx hpy).1 ((hcover px py).mpr h), (hcells px py hpx hpy).1 h, Bool.not_not]
    · rw [(hcells' px py hpx hpy).2 (mt (hcover px py).mp h), (hcells px py hpx hpy).2 h]
  exact hboth

/-- Settles O33: the buffer lists the places in order, and the place of a cell is row-major. -/
theorem renderBufferIsRowMajor : Obligations.RenderBufferIsRowMajor := by
  intro s
  refine ⟨by simp [State.renderBuffer], rfl, fun px py hpx hpy => ?_⟩
  have hlt : py * 64 + px < 2048 := by omega
  rw [State.cell, cellIndex_of_lt hpx hpy, State.renderBuffer, List.getElem?_map,
    List.getElem?_eq_getElem (by simpa using hlt), List.getElem_finRange]
  rfl

end Sys2Proof.Machine
end

section
/-! PROOFS. The key tests and the release of the key wait (R203, R204, R206, R207). -/

namespace Sys2Proof.Machine

theorem keyHeld_iff (keypad : Word) (val : Byte) :
    keyHeld keypad (lowNibble val) = true ↔ keypad.toNat / 2 ^ (val.toNat % 16) % 2 = 1 := by
  rw [keyHeld, lowNibble_toNat, BitVec.getLsbD, Nat.testBit_eq_decide_div_mod_eq, decide_eq_true_iff]

/-- Settles O34: each is one conditional skip. -/
theorem keyTestsReadKeypad : Obligations.KeyTestsReadKeypad := by
  intro x s
  have hskp : exec (.skp x) s = .next (s.skipIf (keyHeld s.keypad (lowNibble (s.reg x)))) := rfl
  have hsknp : exec (.sknp x) s = .next (s.skipIf (!keyHeld s.keypad (lowNibble (s.reg x)))) := rfl
  have hnot : (!keyHeld s.keypad (lowNibble (s.reg x))) = true ↔
      s.keypad.toNat / 2 ^ ((s.reg x).toNat % 16) % 2 = 0 := by
    rw [Bool.not_eq_true', ← Bool.not_eq_true, keyHeld_iff, Nat.mod_two_not_eq_one]
  refine ⟨⟨_, hskp, ?_, s.skipIf_frame _⟩, ⟨_, hsknp, ?_, s.skipIf_frame _⟩⟩
  · simp only [State.skipIf_pc, keyHeld_iff]
    rfl
  · simp only [State.skipIf_pc, hnot]
    rfl

/-! ## A key press (R206) -/

theorem setKeyStateWith_of_release {resume : KeyWaitResume} {s : State} {k : Nibble} {pressed : Bool}
    (h : s.wait = true ∧ pressed = true) :
    setKeyStateWith resume k pressed s =
      { s.setReg s.wreg (k.setWidth 8) with
        wait := false, pc := if resume = .advance then s.pc + 2#16 else s.pc } := by
  rw [setKeyStateWith, if_pos (Bool.and_eq_true_iff.mpr h)]
  cases resume <;> rfl

theorem setKeyStateWith_of_ignored {resume : KeyWaitResume} {s : State} {k : Nibble} {pressed : Bool}
    (h : ¬ (s.wait = true ∧ pressed = true)) : setKeyStateWith resume k pressed s = s :=
  if_neg (mt Bool.and_eq_true_iff.mp h)

theorem State.withWaitPc_frame (s : State) (wait : Bool) (pc : Word) :
    UnchangedBut [.wait, .pc] s { s with wait, pc } := by
  intro f hf
  cases f with
  | wait | pc => exact absurd (by decide) hf
  | mem | v => exact fun _ => rfl
  | _ => rfl

/-- Settles O38: a press that ends the wait is a register write, and then the writes to `WAIT` and `PC`. -/
theorem keyPressReleasesWait : Obligations.KeyPressReleasesWait := by
  refine ⟨fun s k pressed rest hin => step_of_inputs hin, fun resume s k pressed => ⟨fun h => ?_, fun h => ?_⟩⟩
  · rw [setKeyStateWith_of_release h]
    exact ⟨s.reg_setReg_self _ _, rfl, rfl, s.setReg_regs _ _,
      (s.setReg_frame _ _).trans (State.withWaitPc_frame _ _ _)⟩
  · exact setKeyStateWith_of_ignored h

/-! ## After the release (R207) -/

/-- A whole cycle of `Fx0A`: `PC` addresses the `Fx0A` again, reduced (R205). -/
theorem cycle_of_ldVxK {s : State} {x : Reg} (keypad : Word) (hloaded : s.loaded = true) (hwait : s.wait = false)
    (hword : s.fetchWord = encode (.ldVxK x)) :
    cycle keypad s =
      .next ({ s.fetched keypad with wait := true, wreg := x }.setPc ((s.fetched keypad).pc - 2#16)).stageDec := by
  rw [cycle_of_decode keypad hloaded hwait (hword ▸ decodeWord_encode_ldVxK x)]
  rfl

/-- The opcode at the fetch address depends on memory and on `PC` modulo 4095. -/
theorem State.fetchWord_congr {s t : State} (hmem : t.mem = s.mem) (hpc : t.pc.toNat % 4095 = s.pc.toNat % 4095) :
    t.fetchWord = s.fetchWord := by
  have haddress : t.fetchAddress = s.fetchAddress := hpc
  rw [State.fetchWord, State.fetchWord, haddress, State.readByte_congr hmem, State.readByte_congr hmem]

/-- Settles O39: the release leaves memory alone, so that at the same address the same opcode is fetched. -/
theorem resumeAfterKeyWait : Obligations.ResumeAfterKeyWait := by
  intro x k keypad keypad' s t hloaded hwait hword hcycle
  rw [cycle_of_ldVxK keypad hloaded hwait hword] at hcycle
  obtain rfl := Host.Outcome.next.inj hcycle
  have hpc := s.fetched_pc_sub_two keypad
  rw [setKeyStateWith_of_release ⟨rfl, rfl⟩, setKeyStateWith_of_release ⟨rfl, rfl⟩]
  refine ⟨?reexecute, ?advance, rfl⟩
  case reexecute =>
    have hpcMod : ((s.fetched keypad).pc - 2#16).toNat % 4095 = s.pc.toNat % 4095 := by rw [hpc, Nat.mod_mod]
    have hsame := State.fetchWord_congr (s := s) (t := { State.setReg _ x (k.setWidth 8) with
      wait := false, pc := (s.fetched keypad).pc - 2#16 }) rfl hpcMod
    refine ⟨_, cycle_of_ldVxK keypad' hloaded rfl (hsame.trans hword), rfl, rfl, ?_, ?_⟩
    · exact (State.fetched_pc_sub_two _ keypad').trans hpcMod
    · exact State.reg_setReg_self _ _ _
  case advance =>
    have hnext : ((s.fetched keypad).pc - 2#16 + 2#16).toNat = s.pc.toNat % 4095 + 2 := by
      rw [BitVec.sub_add_cancel, s.fetched_pc_toNat]
    exact hnext

end Sys2Proof.Machine
end

section
/-! PROOFS. KBD's key lookup and the two key events (R252 to R254). -/

namespace Sys2Proof.Machine

/-- The search finds nothing exactly when no key of the list has the code. -/
theorem lookupAmong_eq_none {key : Vector String 16} {code : String} {l : List (Fin 16)} :
    lookupAmong key code l = none ↔ ∀ k ∈ l, foldCode key[k] ≠ foldCode code := by
  induction l with
  | nil => simp [lookupAmong]
  | cons k l ih =>
    rw [lookupAmong, List.forall_mem_cons, ← ih]
    split
    · next h => exact ⟨nofun, fun hnone => absurd h hnone.1⟩
    · next h => exact ⟨fun hnone => ⟨h, hnone⟩, And.right⟩

theorem lookup_eq_none {code : String} :
    lookup code = none ↔ ∀ k : Fin 16, foldCode Config.keyMap.key[k] ≠ foldCode code :=
  lookupAmong_eq_none.trans ⟨fun h k => h k (List.mem_finRange k), fun h k _ => h k⟩

/-- Settles O51: what is found has the code, and no two keys have the same code. -/
theorem lookupIsUniqueInverse : Obligations.LookupIsUniqueInverse := by
  intro code k
  refine ⟨⟨lookupAmong_code, fun h => ?_⟩, lookup_eq_none⟩
  cases hfound : lookup code with
  | none => exact absurd h (lookup_eq_none.mp hfound k)
  | some j => exact congrArg some (Config.keyMap.injective j k ((lookupAmong_code hfound).trans h.symm))

/-! ## The key events -/

section
variable {code : String}

theorem handleKeyDown_of_none (h : lookup code = none) (s : State) :
    handleKeyDown code s = { s with guide := some (Config.guidance code) } := by
  unfold lookup at h
  simp only [handleKeyDown, keyDownIn, h]

theorem handleKeyDown_of_some {k : Fin 16} (h : lookup code = some k) (s : State) :
    handleKeyDown code s = { s with hl := s.hl.set k true } := by
  unfold lookup at h
  simp only [handleKeyDown, keyDownIn, h]

theorem handleKeyUp_of_none (h : lookup code = none) (s : State) : handleKeyUp code s = s := by
  unfold lookup at h
  simp only [handleKeyUp, keyUpIn, h]

theorem handleKeyUp_of_some {k : Fin 16} (h : lookup code = some k) (s : State) :
    handleKeyUp code s = { s with hl := s.hl.set k false } := by
  unfold lookup at h
  simp only [handleKeyUp, keyUpIn, h]

end

/-- Setting one highlight bit leaves the others. -/
theorem getElem_setHighlight (hl : Vector Bool 16) (k j : Fin 16) (lit : Bool) :
    (hl.set k lit)[j] = if j = k then lit else hl[j] := by
  simp only [Fin.getElem_fin, Vector.getElem_set, Fin.ext_iff, eq_comm]

theorem handleKeyDown_inputs (code : String) (s : State) : (handleKeyDown code s).inputs = s.inputs :=
  handleKeyDown_frame code s .inputs (by decide)

theorem handleKeyUp_inputs (code : String) (s : State) : (handleKeyUp code s).inputs = s.inputs :=
  handleKeyUp_frame code s .inputs (by decide)

/-- Settles O52: each event is one write to `HL` or `GUIDE`, or nothing. -/
theorem keyEventsSetHighlightOrGuidance : Obligations.KeyEventsSetHighlightOrGuidance := by
  intro s code rest
  have hinput := s.withInputs_frame rest
  refine ⟨fun hin => ?down, fun hin => ?up⟩
  case down =>
    refine ⟨_, step_of_inputs hin, handleKeyDown_inputs code _, fun hnone => ?_, fun k hk => ?_⟩
    · rw [handleKeyDown_of_none hnone]
      exact ⟨rfl, (hinput.trans (State.withGuide_frame _ _)).mono (by decide)⟩
    · rw [handleKeyDown_of_some hk]
      exact ⟨fun j => getElem_setHighlight s.hl k j true, (hinput.trans (State.withHl_frame _ _)).mono (by decide)⟩
  case up =>
    refine ⟨_, step_of_inputs hin, handleKeyUp_inputs code _, fun hnone => ?_, fun k hk => ?_⟩
    · rw [handleKeyUp_of_none hnone]
      exact hinput
    · rw [handleKeyUp_of_some hk]
      exact ⟨fun j => getElem_setHighlight s.hl k j false, (hinput.trans (State.withHl_frame _ _)).mono (by decide)⟩

end Sys2Proof.Machine
end

section
/-! PROOFS. Which instructions write which state (R227), read off each instruction's meaning. -/

namespace Sys2Proof.Machine

/-- Settles O41: for each instruction the fields that its meaning writes are among those that name it. -/
theorem onlyNamedInstructionsWrite : Obligations.OnlyNamedInstructionsWrite := by
  intro i s t h
  obtain ⟨hloaded, hopc, hacc, hcyc, hhl, hguide, hmuted, hinputs, hkeypad⟩ := exec_sameBeyondProgram h
  refine ⟨⟨hloaded, hopc, hacc, hcyc, hhl, hguide, hmuted, hinputs, hkeypad⟩, ?_⟩
  cases i with
  | ret => cases h; unfold State.returnFrom; split <;> simp
  | call nnn => cases h; unfold State.callTo; split <;> simp
  | seByte | sneByte | seReg | sneReg | skp | sknp => cases h; simp
  | ldB x => cases h; rw [State.storeBytes_only_mem]; simp
  | ldMemVx x => cases h; rw [storeRegs_only_mem]; simp
  | ldVxMem x => cases h; rw [loadRegs_only_v]; simp
  | ldStVx x => cases h; rw [setSoundTimer, soundChanged, updateSoundTimer_eq]; simp
  | ldDtVx x => cases h; simp [setDelayTimer]
  | orReg | andReg | xorReg | addReg | subReg | shr | subnReg | shl | drw => cases h; simp [State.setResult]
  | rnd => cases h; simp [State.draw]
  | _ => cases h; simp

end Sys2Proof.Machine
end

section
/-! PROOFS. `advance` (R230): it is as many ticks as whole sixtieths of a second have gathered in `ACC`, and a tick neither
reads nor writes `ACC`, so that times may be added before or after. -/

namespace Sys2Proof.Machine

/-- The ticks that are due after some time has gathered in `ACC` (R230). -/
def ticksDue (gathered : Rat) : Nat := ⌊gathered * 60⌋₊

section
variable {gathered : Rat}

theorem ticksDue_eq_floor (hpos : 0 ≤ gathered) : (ticksDue gathered : Int) = (gathered * 60).floor :=
  Int.natCast_floor_eq_floor (mul_nonneg hpos (by norm_num))

/-- The ticks that are due take no more than the time gathered, and one more would. -/
theorem ticksDue_bounds (hpos : 0 ≤ gathered) :
    (ticksDue gathered : Rat) / 60 ≤ gathered ∧ gathered < (ticksDue gathered + 1 : Rat) / 60 := by
  have hle : (ticksDue gathered : Rat) ≤ gathered * 60 := Nat.floor_le (mul_nonneg hpos (by norm_num))
  have hlt : gathered * 60 < ticksDue gathered + 1 := Nat.lt_floor_add_one _
  constructor <;> linarith

/-- The remainder that `ACC` keeps (R37). -/
theorem remainder_bounds (hpos : 0 ≤ gathered) :
    0 ≤ gathered - ticksDue gathered / 60 ∧ gathered - ticksDue gathered / 60 < 1 / 60 := by
  obtain ⟨hle, hlt⟩ := ticksDue_bounds hpos
  constructor <;> linarith

/-- The ticks due in two spans: first those of the one span, then those of its remainder and the other (R230). -/
theorem ticksDue_add {more : Rat} (hmore : 0 ≤ more) :
    ticksDue (gathered - ticksDue gathered / 60 + more) + ticksDue gathered = ticksDue (gathered + more) := by
  have hmono : ticksDue gathered ≤ ticksDue (gathered + more) := Nat.floor_le_floor (by linarith)
  have hrest : (gathered - ticksDue gathered / 60 + more) * 60 =
      (gathered + more) * 60 - (ticksDue gathered : Nat) := by ring
  have hsub : ticksDue (gathered - ticksDue gathered / 60 + more) = ticksDue (gathered + more) - ticksDue gathered := by
    rw [ticksDue, hrest, Nat.floor_sub_natCast]
    rfl
  omega

end

theorem tick_iterate_setAcc (n : Nat) (s : State) (acc : Rat) :
    tick^[n] { s with acc } = { tick^[n] s with acc } := by
  induction n generalizing s with
  | zero => rfl
  | succ n ih => rw [Function.iterate_succ_apply, tick_setAcc, ih]; rfl

theorem tick_iterate_acc (n : Nat) (s : State) : (tick^[n] s).acc = s.acc := by
  have hset : tick^[n] s = { tick^[n] s with acc := s.acc } := tick_iterate_setAcc n s s.acc
  rw [hset]

/-- `advance` fires the ticks that are due, and keeps the remainder (R230). -/
theorem advance_eq_ticks {s : State} {e : Rat} (hacc : 0 ≤ s.acc) (he : 0 ≤ e) :
    advance e s = .next (tick^[ticksDue (s.acc + e)] { s with acc := s.acc + e - ticksDue (s.acc + e) / 60 }) := by
  have hpos : 0 ≤ s.acc + e := add_nonneg hacc he
  have hfuel : ((s.acc + e) * 60).floor.toNat = ticksDue (s.acc + e) := by rw [← ticksDue_eq_floor hpos]; rfl
  obtain ⟨hle, hlt⟩ := ticksDue_bounds hpos
  rw [advance, if_neg (not_lt.mpr he), hfuel, tickWhileDue_rounds _ _ le_rfl _ hle hlt]

/-- Settles O43: the loop of `advance` is the ticks that are due. -/
theorem advanceFiresWholeTicks : Obligations.AdvanceFiresWholeTicks := by
  intro s e rest hin hacc
  rw [step_of_inputs hin]
  refine ⟨fun hneg => if_pos hneg, fun he => ?_⟩
  have hpos : 0 ≤ s.acc + e := add_nonneg hacc he
  have hticks := advance_eq_ticks (s := { s with inputs := rest }) hacc he
  refine ⟨ticksDue (s.acc + e), _, ticksDue_eq_floor hpos, tick_iterate_acc _ _, ?_, ?_, ?_, hticks⟩ <;>
    rw [tick_iterate_acc]
  · exact (remainder_bounds hpos).1
  · exact (remainder_bounds hpos).2

/-- After `advance` less than a sixtieth of a second is left (R37). -/
theorem advance_accBounds {s t : State} {e : Rat} (h : advance e s = .next t) (hacc : 0 ≤ s.acc) :
    0 ≤ t.acc ∧ t.acc < 1 / 60 := by
  by_cases hneg : e < 0
  · rw [advance, if_pos hneg] at h
    cases h
  · have he : 0 ≤ e := not_lt.mp hneg
    rw [advance_eq_ticks hacc he] at h
    cases h
    rw [tick_iterate_acc]
    exact remainder_bounds (add_nonneg hacc he)

/-- Settles O44: the ticks of both times add up to those of the sum, over one and the same remainder. -/
theorem advanceIsDriftFree : Obligations.AdvanceIsDriftFree := by
  intro s t u w d e hacc hd he ht hu hw
  rw [advance_eq_ticks hacc hd, Host.Outcome.next.injEq] at ht
  have htacc : t.acc = s.acc + d - ticksDue (s.acc + d) / 60 := by rw [← ht, tick_iterate_acc]
  have htpos : 0 ≤ t.acc := htacc ▸ (remainder_bounds (add_nonneg hacc hd)).1
  rw [advance_eq_ticks htpos he, Host.Outcome.next.injEq] at hu
  rw [advance_eq_ticks hacc (add_nonneg hd he), Host.Outcome.next.injEq, ← add_assoc] at hw
  have hticks : ticksDue (t.acc + e) + ticksDue (s.acc + d) = ticksDue (s.acc + d + e) := htacc ▸ ticksDue_add he
  have hrest : t.acc + e - ticksDue (t.acc + e) / 60 = s.acc + d + e - ticksDue (s.acc + d + e) / 60 := by
    rw [htacc] at hticks ⊢
    rw [← hticks]
    push_cast
    ring
  rw [← hu, ← hw, hrest, ← hticks, Function.iterate_add_apply, ← ht]
  simp only [tick_iterate_setAcc]

/-! ## The setters (R233 to R235, R238) -/

/-- Settles O45: each setter writes and stages, and the first two then notify BEEP. -/
theorem timerSettersNotify : Obligations.TimerSettersNotify := by
  intro s d snd rest
  refine ⟨fun hin => ?_, fun hin => ?_, fun hin => step_of_inputs hin⟩
  · rw [step_of_inputs hin]
    simp [perform, loadTimers, soundChanged, State.emit]
  · rw [step_of_inputs hin]
    simp [perform, setSoundTimer, soundChanged, State.emit]

theorem State.withCyc_frame (s : State) (cyc : Nat) : UnchangedBut [.cyc] s { s with cyc } := by
  intro f hf
  cases f with
  | cyc => exact absurd (List.mem_singleton_self _) hf
  | mem | v => exact fun _ => rfl
  | _ => rfl

/-- Settles O58: the event is one write to `CYC`. -/
theorem hostPublishCounts : Obligations.HostPublishCounts := by
  intro s rest hin
  exact ⟨_, step_of_inputs hin, rfl, rfl,
    ((s.withInputs_frame rest).trans (State.withCyc_frame _ _)).mono (by decide)⟩

end Sys2Proof.Machine
end

section
/-! PROOFS. BEEP (R260, R262) and the timer instructions that reach it (R200 to R202, R234), read off what its two events
do; then the beep that only ticks follow. -/

namespace Sys2Proof.Machine

theorem byte_pos_iff (val : Byte) : 0 < val.toNat ↔ val ≠ 0#8 := by
  rw [Nat.pos_iff_ne_zero, ← BitVec.toNat_ne_iff_ne]
  rfl

theorem beepActive_eq_bne (muted : Bool) (val : Byte) : beepActive muted val = (!muted && (val != 0)) := by
  rw [Bool.eq_iff_iff]
  simp [beepActive, byte_pos_iff]

theorem beepChan_eq (muted active : Bool) (chan : Channel) (val : Byte) (c : Nat) :
    beepChan muted active chan val c =
      if muted then .muted
      else if val ≠ 0 ∧ active = false then .active Config.beepFreq (c + val.toNat)
      else if val = 0 ∧ active = true then .inactive else chan := by
  simp only [beepChan, byte_pos_iff]
  congr

theorem beepOuts_eq (muted active : Bool) (val : Byte) (c : Nat) :
    beepOuts muted active val c =
      if muted then (if active then [.stopBeep] else []) ++ [.channelState .muted]
      else if val ≠ 0 ∧ active = false then
        [.startBeep Config.beepFreq, .channelState (.active Config.beepFreq (c + val.toNat))]
      else if val = 0 ∧ active = true then [.stopBeep, .channelState .inactive] else [] := by
  simp only [beepOuts, byte_pos_iff]
  congr

/-! ## The transitions of `updateSoundTimer` (R260) -/

/-- Settles O48: each transition picks its branch of what `updateSoundTimer` does. -/
theorem beepTransitions : Obligations.BeepTransitions := by
  intro s val c
  simp only [updateSoundTimer_eq, beepActive_eq_bne, beepChan_eq, beepOuts_eq]
  refine ⟨fun hmuted => ?muted, fun hmuted (hval : val ≠ 0#8) hactive => ?start,
    fun hmuted (hval : val = 0#8) hactive => ?stop, fun hmuted (hsame : val ≠ 0#8 ↔ _) => ?none⟩
  case muted => simp [hmuted]
  case start => simp [hmuted, hval, hactive]
  case stop => simp [hmuted, hval, hactive]
  case none =>
    have hactive : s.active = (val != 0#8) := by rw [Bool.eq_iff_iff, bne_iff_ne, hsame]
    by_cases hval : val = 0#8 <;> simp [hmuted, hactive, hval]

theorem updateSoundTimer_frame (val : Byte) (c : Nat) (s : State) :
    UnchangedBut [.active, .chan, .lastV, .lastC, .outputs] s (updateSoundTimer val c s) := by
  rw [updateSoundTimer_eq]
  intro f hf
  cases f with
  | active | chan | lastV | lastC | outputs => exact absurd (by decide) hf
  | mem | v => exact fun _ => rfl
  | _ => rfl

theorem State.withSt_frame (s : State) (st : Byte) : UnchangedBut [.st] s { s with st } := by
  intro f hf
  cases f with
  | st => exact absurd (List.mem_singleton_self _) hf
  | mem | v => exact fun _ => rfl
  | _ => rfl

theorem setSoundTimer_frame (val : Byte) (s : State) :
    UnchangedBut [.st, .active, .chan, .lastV, .lastC, .outputs] s (setSoundTimer val s) :=
  ((((s.withSt_frame val).trans (State.emit_frame _ _)).trans (State.emit_frame _ _)).trans
    (updateSoundTimer_frame _ _ _)).mono (by decide)

/-- Everything that `setSoundTimer` does: it stages the timer, and BEEP handles the notification (R234, R236). -/
theorem setSoundTimer_eq (val : Byte) (s : State) :
    setSoundTimer val s =
      { s with
        st := val, lastV := val, lastC := s.cyc, active := beepActive s.muted val
        chan := beepChan s.muted s.active s.chan val s.cyc
        outputs := s.outputs ++ [.stagedSound val, .soundChanged val s.cyc] ++
          beepOuts s.muted s.active val s.cyc } := by
  rw [setSoundTimer, soundChanged, updateSoundTimer_eq]
  simp [State.emit]

/-- Everything that `loadTimers` does: it stages both timers, and BEEP handles the notification (R233, R236). -/
theorem loadTimers_eq (d snd : Byte) (s : State) :
    loadTimers d snd s =
      { s with
        dt := d, st := snd, lastV := snd, lastC := s.cyc, active := beepActive s.muted snd
        chan := beepChan s.muted s.active s.chan snd s.cyc
        outputs := s.outputs ++ [.stagedTimers d snd, .soundChanged snd s.cyc] ++
          beepOuts s.muted s.active snd s.cyc } := by
  rw [loadTimers, soundChanged, updateSoundTimer_eq]
  simp [State.emit]

/-- Settles O36: the instruction stages, emits the notification, and BEEP does one of its transitions. -/
theorem soundTimerInstruction : Obligations.SoundTimerInstruction := by
  intro x s
  have hexec : exec (.ldStVx x) s = .next (setSoundTimer (s.reg x) s) := rfl
  have hframe := setSoundTimer_frame (s.reg x) s
  rw [setSoundTimer_eq] at hexec hframe
  exact ⟨_, hexec, rfl, rfl, rfl, congrArg _ (beepOuts_eq ..), beepActive_eq_bne .., beepChan_eq .., hframe⟩

theorem State.withDt_frame (s : State) (dt : Byte) : UnchangedBut [.dt] s { s with dt } := by
  intro f hf
  cases f with
  | dt => exact absurd (List.mem_singleton_self _) hf
  | mem | v => exact fun _ => rfl
  | _ => rfl

/-- Settles O35: the one is a register write, the other a write to `DT` and its staging. -/
theorem delayTimerInstructions : Obligations.DelayTimerInstructions := by
  intro x s
  have hread : exec (.ldVxDt x) s = .next (s.setReg x s.dt) := rfl
  have hwrite : exec (.ldDtVx x) s = .next (setDelayTimer (s.reg x) s) := rfl
  exact ⟨exec_setReg_writes hread, ⟨_, hwrite, rfl, rfl, (s.withDt_frame _).trans (State.emit_frame _ _)⟩⟩

/-! ## `toggleMute` (R262) -/

theorem toggleMute_frame (flag : Bool) (s : State) :
    UnchangedBut [.muted, .active, .chan, .outputs] s (toggleMute flag s) := by
  obtain ⟨act, chan, outs, heq, -⟩ := toggleMute_cases s flag
  rw [heq]
  intro f hf
  cases f with
  | muted | active | chan | outputs => exact absurd (by decide) hf
  | mem | v => exact fun _ => rfl
  | _ => rfl

/-- Settles O49: the four cases of the re-evaluation. -/
theorem toggleMuteReevaluates : Obligations.ToggleMuteReevaluates := by
  intro s flag rest hin
  have hframe := ((s.withInputs_frame rest).trans (toggleMute_frame flag _)).mono
    (changed' := [.muted, .active, .chan, .outputs, .inputs]) (by decide)
  refine ⟨_, step_of_inputs hin, ?_⟩
  obtain ⟨act, chan, outs, heq, hcase⟩ := toggleMute_cases { s with inputs := rest } flag
  rw [heq] at hframe ⊢
  simp only [byte_pos_iff] at hcase
  obtain ⟨rfl, rfl, rfl, rfl⟩ | ⟨rfl, hlast, hactive, rfl, rfl, rfl⟩ | ⟨rfl, hactive, rfl, rfl, rfl⟩ |
    ⟨rfl, hlast, hactive, rfl, rfl, rfl⟩ := hcase
  · exact ⟨rfl, rfl, rfl, by simp, rfl, hframe⟩
  · simp_all
  · simp_all
  · simp_all

/-! ## A beep that only ticks follow -/

/-- A beep is on that will stop when `CYC` reaches `stop`, which it will after as many ticks as `ST` counts (R260). -/
structure BeepingUntil (stop : Nat) (s : State) : Prop where
  unmuted : s.muted = false
  active : s.active = true
  chan : s.chan = .active Config.beepFreq stop
  stopTick : s.cyc + s.st.toNat = stop
  running : 0 < s.st.toNat

/-- The `nextStopTick` of a new beep is as many ticks away as the sound timer counts. -/
theorem setSoundTimer_beeping {s : State} {val : Byte} (hmuted : s.muted = false) (hactive : s.active = false)
    (hval : 0 < val.toNat) : BeepingUntil (s.cyc + val.toNat) (setSoundTimer val s) := by
  constructor <;> simp [setSoundTimer_eq, beepActive, beepChan, hmuted, hactive, hval]

section
variable {stop : Nat} {s : State}

theorem tick_cyc (s : State) : (tick s).cyc = s.cyc + 1 := by
  rw [tick_eq]
  split
  · rw [soundChanged, updateSoundTimer_eq]; rfl
  · rfl

theorem tick_st_toNat (s : State) : (tick s).st.toNat = s.st.toNat - 1 := by
  rw [tick_eq, ← countDown_toNat]
  split
  · rw [soundChanged, updateSoundTimer_eq]; rfl
  · rfl

/-- A tick that leaves `ST` above 0 leaves the beep on: its notification finds the beep active and the value nonzero. -/
theorem BeepingUntil.tick (h : BeepingUntil stop s) (hmore : 1 < s.st.toNat) : BeepingUntil stop (Machine.tick s) := by
  have hst := tick_st_toNat s
  have hcyc := tick_cyc s
  have hstop := h.stopTick
  have hdown : 0 < (countDown s.st).toNat := by rw [countDown_toNat]; omega
  have hne := (byte_pos_iff _).mp hdown
  refine ⟨?_, ?_, ?_, by omega, by omega⟩ <;> rw [tick_eq, if_pos h.running, soundChanged, updateSoundTimer_eq]
  · exact h.unmuted
  · simp [beepActive, State.ticked, h.unmuted, hdown]
  · simpa [beepChan, State.ticked, h.unmuted, h.active, hne] using h.chan

/-- The tick that takes `ST` to 0 stops the beep. -/
theorem BeepingUntil.lastTick (h : BeepingUntil stop s) (hlast : s.st.toNat = 1) :
    (Machine.tick s).active = false ∧ (Machine.tick s).chan = .inactive := by
  have hdown : countDown s.st = 0#8 := BitVec.eq_of_toNat_eq (by rw [countDown_toNat, hlast]; rfl)
  rw [tick_eq, if_pos h.running, soundChanged, updateSoundTimer_eq]
  simp [beepActive, beepChan, State.ticked, h.unmuted, h.active, hdown]

/-- After fewer ticks than `ST` counts the beep is still on. -/
theorem BeepingUntil.iterate (h : BeepingUntil stop s) {k : Nat} (hk : k < s.st.toNat) :
    BeepingUntil stop (Machine.tick^[k] s) ∧ (Machine.tick^[k] s).st.toNat = s.st.toNat - k := by
  induction k with
  | zero => exact ⟨h, rfl⟩
  | succ k ih =>
    obtain ⟨hbeep, hst⟩ := ih (by omega)
    rw [Function.iterate_succ_apply']
    exact ⟨hbeep.tick (by omega), by rw [tick_st_toNat]; omega⟩

end

/-- Settles O47: the beep is on until `ST` is 1, and the next tick stops it. -/
theorem beepStopsAtNextStopTick : Obligations.BeepStopsAtNextStopTick := by
  intro s val hmuted hactive hval
  have hstart := setSoundTimer_beeping hmuted hactive hval
  have hcyc : (setSoundTimer val s).cyc = s.cyc := by rw [setSoundTimer_eq]
  have hst : (setSoundTimer val s).st.toNat = val.toNat := by have := hstart.stopTick; omega
  refine ⟨fun k hk => ?during, ?atStop⟩
  case during =>
    obtain ⟨hbeep, hleft⟩ := hstart.iterate (hst ▸ hk)
    have hstop := hbeep.stopTick
    exact ⟨hbeep.active, hbeep.chan, by omega⟩
  case atStop =>
    obtain ⟨k, hk⟩ : ∃ k, val.toNat = k + 1 := ⟨val.toNat - 1, by omega⟩
    obtain ⟨hbeep, hleft⟩ := hstart.iterate (k := k) (by omega)
    have hstop := hbeep.stopTick
    have hone : (tick^[k] (setSoundTimer val s)).st.toNat = 1 := by omega
    obtain ⟨hoff, hchan⟩ := hbeep.lastTick hone
    have hzero := tick_st_toNat (tick^[k] (setSoundTimer val s))
    have hcount := tick_cyc (tick^[k] (setSoundTimer val s))
    rw [hk, Function.iterate_succ_apply']
    exact ⟨hoff, hchan, BitVec.eq_of_toNat_eq (by rw [hzero, hone]; rfl), by omega⟩

end Sys2Proof.Machine
end

section
/-! PROOFS. What every event does to the output sequence, to `CYC` and to a muted unit, said once (R40, R238, R260, R262): the
counting of publishes and the silence while muted are read off it. -/

namespace Sys2Proof.Machine

def isPublished : Output → Bool
  | .published _ => true
  | _ => false

/-- From `s` to `t` outputs are only appended, `CYC` grows by 1 for each snapshot published, and a muted unit stays muted
and starts nothing. -/
def Emits (s t : State) : Prop :=
  ∃ new, t.outputs = s.outputs ++ new ∧ t.cyc = s.cyc + new.countP isPublished ∧
    (s.muted = true → t.muted = true ∧ ∀ freq, Output.startBeep freq ∉ new)

theorem Emits.trans {s t u : State} (hst : Emits s t) (htu : Emits t u) : Emits s u := by
  obtain ⟨new, houtputs, hcyc, hmuted⟩ := hst
  obtain ⟨new', houtputs', hcyc', hmuted'⟩ := htu
  refine ⟨new ++ new', by rw [houtputs', houtputs, List.append_assoc],
    by rw [hcyc', hcyc, List.countP_append, Nat.add_assoc], fun h => ?_⟩
  obtain ⟨ht, hnew⟩ := hmuted h
  obtain ⟨hu, hnew'⟩ := hmuted' ht
  exact ⟨hu, fun freq hmem => (List.mem_append.mp hmem).elim (hnew freq) (hnew' freq)⟩

/-- A write to other fields emits nothing. -/
theorem Emits.of_eq {s t : State} (houtputs : t.outputs = s.outputs) (hcyc : t.cyc = s.cyc)
    (hmuted : t.muted = s.muted) : Emits s t :=
  ⟨[], by rw [houtputs, List.append_nil], hcyc, fun h => ⟨hmuted.trans h, by simp⟩⟩

theorem Emits.refl (s : State) : Emits s s := .of_eq rfl rfl rfl

theorem State.emit_emits (s : State) {o : Output} (hpub : isPublished o = false)
    (hstart : ∀ freq, o ≠ .startBeep freq) : Emits s (s.emit o) :=
  ⟨[o], rfl, by simp [hpub], fun h => ⟨h, fun freq hmem => hstart freq (List.mem_singleton.mp hmem).symm⟩⟩

/-! ## BEEP and the timers -/

theorem updateSoundTimer_emits (val : Byte) (c : Nat) (s : State) : Emits s (updateSoundTimer val c s) := by
  rw [updateSoundTimer_eq]
  refine ⟨beepOuts s.muted s.active val c, rfl, ?_, fun hmuted => ⟨hmuted, ?_⟩⟩
  · unfold beepOuts
    split_ifs <;> simp [isPublished]
  · unfold beepOuts
    cases s.active <;> simp [hmuted]

theorem soundChanged_emits (val : Byte) (c : Nat) (s : State) : Emits s (soundChanged val c s) :=
  (s.emit_emits rfl (by simp)).trans (updateSoundTimer_emits val c _)

theorem setSoundTimer_emits (val : Byte) (s : State) : Emits s (setSoundTimer val s) := by
  have hstaged : Emits s (State.emit { s with st := val } (.stagedSound val)) :=
    ⟨_, rfl, rfl, fun h => ⟨h, by simp⟩⟩
  exact hstaged.trans (soundChanged_emits val s.cyc _)

theorem setDelayTimer_emits (val : Byte) (s : State) : Emits s (setDelayTimer val s) :=
  ⟨[.stagedDelay val], rfl, rfl, fun h => ⟨h, by simp⟩⟩

theorem loadTimers_emits (d snd : Byte) (s : State) : Emits s (loadTimers d snd s) := by
  have hstaged : Emits s (State.emit { s with dt := d, st := snd } (.stagedTimers d snd)) :=
    ⟨_, rfl, rfl, fun h => ⟨h, by simp⟩⟩
  exact hstaged.trans (soundChanged_emits snd s.cyc _)

/-- A tick is the one transition that publishes (R231, 92 D3). -/
theorem tick_emits (s : State) : Emits s (tick s) := by
  have hticked : Emits s s.ticked := ⟨_, rfl, rfl, fun h => ⟨h, by simp⟩⟩
  rw [tick_eq]
  split
  · exact hticked.trans (soundChanged_emits _ _ _)
  · exact hticked

theorem tickWhileDue_emits (fuel : Nat) (s : State) : Emits s (tickWhileDue fuel s) := by
  induction fuel generalizing s with
  | zero => exact .refl s
  | succ fuel ih =>
    unfold tickWhileDue
    split
    · exact (Emits.of_eq rfl rfl rfl).trans ((tick_emits { s with acc := s.acc - 1 / 60 }).trans (ih _))
    · exact .refl s

theorem advance_emits {elapsed : Rat} {s t : State} (h : advance elapsed s = .next t) : Emits s t := by
  unfold advance at h
  split at h
  · cases h
  · cases h
    exact (Emits.of_eq rfl rfl rfl).trans (tickWhileDue_emits _ { s with acc := s.acc + elapsed })

/-- Muting starts nothing, and stays muted (R262). -/
theorem toggleMute_true_emits (s : State) : Emits s (toggleMute true s) := by
  obtain ⟨act, chan, outs, heq, hcase⟩ := toggleMute_cases s true
  simp only [Bool.true_eq_false, false_and, or_false, true_and] at hcase
  obtain ⟨rfl, rfl, rfl⟩ := hcase
  rw [heq]
  refine ⟨(if s.active then [.stopBeep] else []) ++ [.channelState .muted], List.append_assoc .., ?_,
    fun _ => ⟨rfl, ?_⟩⟩ <;>
    cases s.active <;> simp [isPublished]

/-! ## DEC -/

/-- An instruction that writes timers, BEEP or outputs is one of the two that set a timer (R35, R36, R201, R202). -/
theorem exec_units_cases {i : Instr} {s t : State} (h : exec i s = .next t) :
    (∃ x, i = .ldDtVx x ∧ t = setDelayTimer (s.reg x) s) ∨ (∃ x, i = .ldStVx x ∧ t = setSoundTimer (s.reg x) s) ∨
      (t.dt = s.dt ∧ t.st = s.st ∧ t.active = s.active ∧ t.chan = s.chan ∧ t.outputs = s.outputs) := by
  obtain ⟨-, -, -, -, -, -, -, -, hdt, hbeep, houtputs, -, -⟩ := onlyNamedInstructionsWrite i s t h
  by_cases hdelay : ∃ x, i = .ldDtVx x
  · obtain ⟨x, rfl⟩ := hdelay
    cases h
    exact .inl ⟨x, rfl, rfl⟩
  · by_cases hsound : ∃ x, i = .ldStVx x
    · obtain ⟨x, rfl⟩ := hsound
      cases h
      exact .inr (.inl ⟨x, rfl, rfl⟩)
    · have hbeep' := mt hbeep hsound
      simp only [not_or, not_not] at hbeep'
      obtain ⟨hst, hactive, hchan, -⟩ := hbeep'
      have hneither : ¬ ∃ x, i = .ldDtVx x ∨ i = .ldStVx x := fun ⟨x, hx⟩ =>
        hx.elim (fun hx => hdelay ⟨x, hx⟩) (fun hx => hsound ⟨x, hx⟩)
      exact .inr (.inr ⟨not_not.mp (mt hdt hdelay), hst, hactive, hchan, not_not.mp (mt houtputs hneither)⟩)

theorem exec_emits {i : Instr} {s t : State} (h : exec i s = .next t) : Emits s t := by
  have hsame := exec_sameBeyondProgram h
  obtain ⟨x, -, rfl⟩ | ⟨x, -, rfl⟩ | ⟨-, -, -, -, houtputs⟩ := exec_units_cases h
  · exact setDelayTimer_emits _ s
  · exact setSoundTimer_emits _ s
  · exact .of_eq houtputs hsame.cyc hsame.muted

theorem State.stageDec_emits (s : State) : Emits s s.stageDec := s.emit_emits rfl (by simp)

theorem cycle_emits {keypad : Word} {s t : State} (h : cycle keypad s = .next t) : Emits s t := by
  obtain ⟨rfl, -⟩ | ⟨-, -, u, hu, rfl⟩ := cycle_cases h
  · exact .refl _
  · have hfetch : Emits s (s.fetched keypad) := .of_eq rfl rfl rfl
    obtain ⟨i, -, hi⟩ | rfl := execOpcode_cases hu
    · exact (hfetch.trans (exec_emits hi)).trans u.stageDec_emits
    · exact hfetch.trans (State.stageDec_emits _)

theorem executeCycles_emits {keypad : Word} {n : Nat} {s t : State} (h : executeCycles keypad n s = .next t) :
    Emits s t := by
  obtain rfl | ⟨inputs, hcycle⟩ := executeCycles_cases h
  · exact .refl _
  · have hqueue : Emits s { s with inputs } := .of_eq rfl rfl rfl
    exact hqueue.trans (cycle_emits hcycle)

theorem resetEvent_emits (s : State) : Emits s (resetEvent s) :=
  ((Emits.of_eq rfl rfl rfl).trans s.clearDec.stageDec_emits).trans (loadTimers_emits _ _ _)

theorem loadRom_emits (bytes : List Byte) (s : State) : Emits s (loadRom bytes s) := by
  unfold loadRom
  split
  · exact (resetEvent_emits s).trans (State.emit_emits _ rfl (by simp))
  · rw [State.storeBytes_only_mem]
    exact ((resetEvent_emits s).trans (Emits.of_eq rfl rfl rfl)).trans (State.emit_emits _ rfl (by simp))

theorem setKeyState_emits (k : Nibble) (pressed : Bool) (s : State) : Emits s (setKeyState k pressed s) := by
  unfold setKeyState setKeyStateWith
  split
  · cases Config.keyWaitResume <;> exact .of_eq rfl rfl rfl
  · exact .refl s

/-! ## KBD -/

theorem Emits.of_frame {changed : List Field} {s t : State} (h : UnchangedBut changed s t)
    (hkept : Field.outputs ∉ changed ∧ Field.cyc ∉ changed ∧ Field.muted ∉ changed) : Emits s t :=
  .of_eq (h .outputs hkept.1) (h .cyc hkept.2.1) (h .muted hkept.2.2)

theorem buildProfile_emits (s : State) : Emits s (buildProfile s) := ⟨_, rfl, rfl, fun h => ⟨h, by simp⟩⟩

/-! ## Every event -/

/-- Every event but a `hostPublish`, which counts and publishes nothing, and a `toggleMute(0)`, which may start a beep. -/
theorem perform_emits {e : Event} {s t : State} (h : perform e s = .next t) (hhost : e ≠ .hostPublish)
    (hunmute : e ≠ .toggleMute false) : Emits s t := by
  cases e with
  | hostPublish => exact absurd rfl hhost
  | toggleMute flag =>
    cases flag with
    | false => exact absurd rfl hunmute
    | true => cases h; exact toggleMute_true_emits s
  | executeCycles keypad n => exact executeCycles_emits h
  | advance elapsed => exact advance_emits h
  | reset => cases h; exact resetEvent_emits s
  | loadRom bytes => cases h; exact loadRom_emits bytes s
  | setKeyState k pressed => cases h; exact setKeyState_emits k pressed s
  | forceTick => cases h; exact tick_emits s
  | loadTimers d snd => cases h; exact loadTimers_emits d snd s
  | setSoundTimer val => cases h; exact setSoundTimer_emits val s
  | setDelayTimer val => cases h; exact setDelayTimer_emits val s
  | handleKeyDown code => cases h; exact .of_frame (handleKeyDown_frame code s) (by decide)
  | handleKeyUp code => cases h; exact .of_frame (handleKeyUp_frame code s) (by decide)
  | buildProfile => cases h; exact buildProfile_emits s

/-- A `toggleMute` publishes the channel state, but no snapshot (R262). -/
theorem toggleMute_cyc (flag : Bool) (s : State) :
    ∃ new, (toggleMute flag s).outputs = s.outputs ++ new ∧ (toggleMute flag s).cyc = s.cyc ∧
      new.countP isPublished = 0 := by
  obtain ⟨act, chan, outs, heq, hcase⟩ := toggleMute_cases s flag
  refine ⟨outs ++ [.channelState chan], by rw [heq]; exact List.append_assoc .., by rw [heq], ?_⟩
  obtain ⟨-, -, -, rfl⟩ | ⟨-, -, -, -, -, rfl⟩ | ⟨-, -, -, -, rfl⟩ | ⟨-, -, -, -, -, rfl⟩ := hcase
  · cases s.active <;> rfl
  all_goals rfl

/-- Settles O46: `hostPublish` adds its 1 without an output, and every other event counts what it publishes. -/
theorem cycCountsPublishes : Obligations.CycCountsPublishes := by
  intro s t h
  obtain ⟨hin, rfl⟩ | ⟨e, rest, hin, hperform⟩ := step_cases h
  · exact ⟨[], by simp [hin]⟩
  simp only [hin, List.head?_cons, Option.some.injEq]
  by_cases hhost : e = .hostPublish
  · subst hhost
    cases hperform
    exact ⟨[], (List.append_nil _).symm, rfl⟩
  rw [if_neg hhost]
  by_cases hunmute : e = .toggleMute false
  · subst hunmute
    cases hperform
    obtain ⟨new, houtputs, hcyc, hnone⟩ := toggleMute_cyc false { s with inputs := rest }
    exact ⟨new, houtputs, hcyc.trans (congrArg (s.cyc + ·) hnone.symm)⟩
  · obtain ⟨new, houtputs, hcyc, -⟩ := perform_emits hperform hhost hunmute
    exact ⟨new, houtputs, hcyc⟩

/-- Settles O50: a `hostPublish` emits nothing at all. -/
theorem mutedNeverStarts : Obligations.MutedNeverStarts := by
  intro s t h hmuted hhead
  obtain ⟨-, rfl⟩ | ⟨e, rest, hin, hperform⟩ := step_cases h
  · exact ⟨[], by simp⟩
  rw [hin, List.head?_cons, ne_eq, Option.some.injEq] at hhead
  by_cases hhost : e = .hostPublish
  · subst hhost
    cases hperform
    exact ⟨[], (List.append_nil _).symm, by simp⟩
  · obtain ⟨new, houtputs, -, hquiet⟩ := perform_emits hperform hhost hhead
    exact ⟨new, houtputs, (hquiet hmuted).2⟩

end Sys2Proof.Machine
end

section
/-! PROOFS. The invariant (R49) in three parts that no event mixes: what DEC keeps, what the timers and BEEP keep with what
they have staged, and the remainder in `ACC`. -/

namespace Sys2Proof.Machine

/-! ## The part of DEC -/

/-- The clauses of the invariant about memory, `PC`, the return stack and the key wait. -/
structure DecInv (s : State) : Prop where
  memory : s.mem.wf = true
  waitLoaded : s.wait = true → s.loaded = true
  pcBound : s.pc.toNat ≤ 0x10FE
  stackBound : ∀ k : Fin 16, s.stack[k].toNat ≤ 4096
  waitPc : s.wait = true → s.pc.toNat ≤ 4094

/-- Two states agree in the fields that those clauses speak of. -/
structure SameDec (s t : State) : Prop where
  mem : t.mem = s.mem
  wait : t.wait = s.wait
  loaded : t.loaded = s.loaded
  pc : t.pc = s.pc
  stack : t.stack = s.stack

theorem SameDec.refl (s : State) : SameDec s s := ⟨rfl, rfl, rfl, rfl, rfl⟩

theorem SameDec.trans {s t u : State} (hst : SameDec s t) (htu : SameDec t u) : SameDec s u :=
  ⟨htu.mem.trans hst.mem, htu.wait.trans hst.wait, htu.loaded.trans hst.loaded, htu.pc.trans hst.pc,
    htu.stack.trans hst.stack⟩

theorem DecInv.of_same {s t : State} (h : DecInv s) (hsame : SameDec s t) : DecInv t := by
  obtain ⟨hmem, hwait, hloaded, hpc, hstack⟩ := hsame
  constructor <;> simp only [hmem, hwait, hloaded, hpc, hstack]
  exacts [h.memory, h.waitLoaded, h.pcBound, h.stackBound, h.waitPc]

theorem setSoundTimer_sameDec (val : Byte) (s : State) : SameDec s (setSoundTimer val s) := by
  rw [setSoundTimer_eq]
  exact ⟨rfl, rfl, rfl, rfl, rfl⟩

theorem loadTimers_sameDec (d snd : Byte) (s : State) : SameDec s (loadTimers d snd s) := by
  rw [loadTimers_eq]
  exact ⟨rfl, rfl, rfl, rfl, rfl⟩

theorem tick_sameDec (s : State) : SameDec s (tick s) := by
  rw [tick_eq]
  split
  · rw [soundChanged, updateSoundTimer_eq]
    exact ⟨rfl, rfl, rfl, rfl, rfl⟩
  · exact ⟨rfl, rfl, rfl, rfl, rfl⟩

theorem tickWhileDue_sameDec (fuel : Nat) (s : State) : SameDec s (tickWhileDue fuel s) := by
  induction fuel generalizing s with
  | zero => exact .refl s
  | succ fuel ih =>
    unfold tickWhileDue
    split
    · have hacc : SameDec s { s with acc := s.acc - 1 / 60 } := ⟨rfl, rfl, rfl, rfl, rfl⟩
      exact hacc.trans ((tick_sameDec _).trans (ih _))
    · exact .refl s

theorem advance_sameDec {elapsed : Rat} {s t : State} (h : advance elapsed s = .next t) : SameDec s t := by
  unfold advance at h
  split at h
  · cases h
  · cases h
    have hacc : SameDec s { s with acc := s.acc + elapsed } := ⟨rfl, rfl, rfl, rfl, rfl⟩
    exact hacc.trans (tickWhileDue_sameDec _ _)

theorem toggleMute_sameDec (flag : Bool) (s : State) : SameDec s (toggleMute flag s) := by
  obtain ⟨act, chan, outs, heq, -⟩ := toggleMute_cases s flag
  rw [heq]
  exact ⟨rfl, rfl, rfl, rfl, rfl⟩

theorem handleKeyDown_sameDec (code : String) (s : State) : SameDec s (handleKeyDown code s) := by
  unfold handleKeyDown keyDownIn
  split <;> exact ⟨rfl, rfl, rfl, rfl, rfl⟩

theorem handleKeyUp_sameDec (code : String) (s : State) : SameDec s (handleKeyUp code s) := by
  unfold handleKeyUp keyUpIn
  split <;> exact ⟨rfl, rfl, rfl, rfl, rfl⟩

/-- The events of TMR, KBD and BEEP do not reach DEC (R271). -/
theorem perform_sameDec {e : Event} {s t : State} (h : perform e s = .next t) (he : IndependentOfWait e) :
    SameDec s t := by
  cases e with
  | reset | loadRom | executeCycles | setKeyState => exact he.elim
  | advance elapsed => exact advance_sameDec h
  | forceTick => cases h; exact tick_sameDec s
  | loadTimers d snd => cases h; exact loadTimers_sameDec d snd s
  | setSoundTimer val => cases h; exact setSoundTimer_sameDec val s
  | toggleMute flag => cases h; exact toggleMute_sameDec flag s
  | handleKeyDown code => cases h; exact handleKeyDown_sameDec code s
  | handleKeyUp code => cases h; exact handleKeyUp_sameDec code s
  | setDelayTimer | buildProfile | hostPublish => cases h; exact ⟨rfl, rfl, rfl, rfl, rfl⟩

/-! ### Instructions -/

/-- What an instruction may count on after the fetch (R102). -/
structure Fetched (s : State) : Prop where
  memory : s.mem.wf = true
  running : s.wait = false
  loaded : s.loaded = true
  pcLow : 2 ≤ s.pc.toNat
  pcHigh : s.pc.toNat ≤ 4096
  stackBound : ∀ k : Fin 16, s.stack[k].toNat ≤ 4096

theorem DecInv.fetched {s : State} (h : DecInv s) (hloaded : s.loaded = true) (hwait : s.wait = false) (keypad : Word) :
    Fetched (s.fetched keypad) := by
  have hpc := s.fetched_pc_toNat keypad
  exact ⟨h.memory, hwait, hloaded, by omega, by omega, h.stackBound⟩

section
variable {s t : State}

/-- An instruction that does not enter the key wait keeps DEC's part if it writes a `PC` and a stack within their
bounds and keeps memory canonical. -/
theorem Fetched.decInv (h : Fetched s) (hmem : t.mem.wf = true) (hwait : t.wait = s.wait) (hpc : t.pc.toNat ≤ 0x10FE)
    (hstack : ∀ k : Fin 16, t.stack[k].toNat ≤ 4096) : DecInv t := by
  have hrun : t.wait ≠ true := by rw [hwait, h.running]; decide
  exact ⟨hmem, fun hw => absurd hw hrun, hpc, hstack, fun hw => absurd hw hrun⟩

theorem Fetched.pcBound (h : Fetched s) : s.pc.toNat ≤ 0x10FE := by
  have := h.pcHigh
  omega

theorem Fetched.decInv_of_same (h : Fetched s) (hsame : SameDec s t) : DecInv t :=
  h.decInv (hsame.mem ▸ h.memory) hsame.wait (hsame.pc ▸ h.pcBound) (hsame.stack ▸ h.stackBound)

theorem Fetched.skipIf (h : Fetched s) (cond : Bool) : DecInv (s.skipIf cond) := by
  have hhigh := h.pcHigh
  refine h.decInv (by simpa using h.memory) (by simp) ?_ (by simpa using h.stackBound)
  cases cond with
  | true =>
    rw [State.skipIf_pc, if_pos rfl, BitVec.toNat_add, BitVec.toNat_ofNat]
    omega
  | false => exact h.pcBound

/-- A call pushes the address after the fetch, which is at most 4096. -/
theorem Fetched.callTo (h : Fetched s) (nnn : Addr) : DecInv (s.callTo (targetOf nnn)) := by
  have hnnn := nnn.isLt
  by_cases hroom : s.sp.val < 16
  · rw [State.callTo_of_room _ hroom]
    refine h.decInv h.memory rfl ?_ fun k => ?_
    · rw [targetOf_toNat]
      omega
    · rw [getElem_push]
      split
      · exact h.pcHigh
      · exact h.stackBound k
  · rw [State.callTo_of_full _ hroom]
    exact h.decInv_of_same (.refl s)

theorem Fetched.returnFrom (h : Fetched s) : DecInv s.returnFrom := by
  unfold State.returnFrom
  split
  · next hsp =>
    have hret := h.stackBound ⟨s.sp.val - 1, by omega⟩
    exact h.decInv h.memory rfl (Nat.le_trans hret (by decide)) h.stackBound
  · exact h.decInv_of_same (.refl s)

/-- Taking `PC` back by 2 addresses the `Fx0A` again, at most 4094 (R205). -/
theorem Fetched.keyWait (h : Fetched s) (x : Reg) :
    DecInv ({ s with wait := true, wreg := x }.setPc (s.pc - 2#16)) := by
  have hlow := h.pcLow
  have hhigh := h.pcHigh
  have hpc : (s.pc - 2#16).toNat ≤ 4094 := by
    rw [BitVec.toNat_sub, BitVec.toNat_ofNat]
    omega
  exact ⟨h.memory, fun _ => h.loaded, Nat.le_trans hpc (by decide), h.stackBound, fun _ => hpc⟩

theorem exec_decInv {i : Instr} (h : Fetched s) (hexec : exec i s = .next t) : DecInv t := by
  cases i with
  | ret => cases hexec; exact h.returnFrom
  | jp nnn =>
    cases hexec
    have hnnn := nnn.isLt
    exact h.decInv h.memory rfl (by rw [State.setPc_pc, targetOf_toNat]; omega) h.stackBound
  | jpV0 nnn =>
    cases hexec
    have hnnn := nnn.isLt
    have hv0 := (s.reg 0#4).isLt
    exact h.decInv h.memory rfl (by rw [State.setPc_pc, targetPlus_toNat]; omega) h.stackBound
  | call nnn => cases hexec; exact h.callTo nnn
  | seByte | sneByte | seReg | sneReg | skp | sknp => cases hexec; exact h.skipIf _
  | ldVxK x => cases hexec; exact h.keyWait x
  | ldB x =>
    cases hexec
    have hwf := State.storeBytes_wf h.memory (indexed s.i 0) (decimalDigits (s.reg x))
    rw [State.storeBytes_only_mem]
    exact h.decInv hwf rfl h.pcBound h.stackBound
  | ldMemVx x =>
    cases hexec
    have hwf := storeRegs_wf s.i 0 (x.toNat + 1) h.memory
    rw [storeRegs_only_mem]
    exact h.decInv hwf rfl h.pcBound h.stackBound
  | ldVxMem x =>
    cases hexec
    rw [loadRegs_only_v]
    exact h.decInv_of_same ⟨rfl, rfl, rfl, rfl, rfl⟩
  | ldStVx x => cases hexec; exact h.decInv_of_same (setSoundTimer_sameDec _ s)
  | _ => cases hexec; exact h.decInv_of_same ⟨rfl, rfl, rfl, rfl, rfl⟩

end

/-! ### The events of DEC -/

section
variable {s t : State}

theorem cycle_decInv {keypad : Word} (h : DecInv s) (hcycle : cycle keypad s = .next t) : DecInv t := by
  obtain ⟨rfl, -⟩ | ⟨hloaded, hwait, u, hu, rfl⟩ := cycle_cases hcycle
  · exact h
  · have hfetched := h.fetched hloaded hwait keypad
    have hdec : DecInv u := by
      obtain ⟨i, -, hi⟩ | rfl := execOpcode_cases hu
      · exact exec_decInv hfetched hi
      · exact hfetched.decInv_of_same (.refl _)
    exact hdec.of_same ⟨rfl, rfl, rfl, rfl, rfl⟩

theorem decInv_reset : DecInv State.reset := ⟨reset_memory_wf, nofun, by decide, by decide, nofun⟩

theorem resetEvent_decInv (s : State) : DecInv (resetEvent s) := by
  have hclear : DecInv s.clearDec.stageDec := decInv_reset.of_same ⟨rfl, rfl, rfl, rfl, rfl⟩
  exact hclear.of_same (loadTimers_sameDec _ _ _)

theorem loadRom_decInv (bytes : List Byte) (s : State) : DecInv (loadRom bytes s) := by
  obtain ⟨hmemory, -, hpcBound, hstackBound, hwaitPc⟩ := resetEvent_decInv s
  unfold loadRom
  split
  · exact (resetEvent_decInv s).of_same ⟨rfl, rfl, rfl, rfl, rfl⟩
  · have hwf := State.storeBytes_wf hmemory 0x200 bytes
    rw [State.storeBytes_only_mem]
    exact ⟨hwf, fun _ => rfl, hpcBound, hstackBound, hwaitPc⟩

theorem setKeyState_decInv (k : Nibble) (pressed : Bool) (h : DecInv s) : DecInv (setKeyState k pressed s) := by
  unfold setKeyState setKeyStateWith
  split
  · next hpress =>
    have hpc := h.waitPc (Bool.and_eq_true_iff.mp hpress).1
    cases Config.keyWaitResume with
    | reexecute => exact ⟨h.memory, nofun, h.pcBound, h.stackBound, nofun⟩
    | advance =>
      have hnext : (s.pc + 2#16).toNat ≤ 0x10FE := by
        rw [BitVec.toNat_add, BitVec.toNat_ofNat]
        omega
      exact ⟨h.memory, nofun, hnext, h.stackBound, nofun⟩
  · exact h

theorem perform_decInv {e : Event} (h : DecInv s) (hperform : perform e s = .next t) : DecInv t := by
  cases e with
  | reset => cases hperform; exact resetEvent_decInv s
  | loadRom bytes => cases hperform; exact loadRom_decInv bytes s
  | setKeyState k pressed => cases hperform; exact setKeyState_decInv k pressed h
  | executeCycles keypad n =>
    obtain rfl | ⟨inputs, hcycle⟩ := executeCycles_cases hperform
    · exact h
    · have hqueue : DecInv { s with inputs } := h.of_same ⟨rfl, rfl, rfl, rfl, rfl⟩
      exact cycle_decInv hqueue hcycle
  | _ => exact h.of_same (perform_sameDec hperform trivial)

end

/-! ## The part of the timers and BEEP -/

/-- `MUTED`, `ACTIVE` and `CHAN` are in one of the three states of BEEP (R44). -/
def BeepMode (muted active : Bool) (chan : Channel) : Prop :=
  (muted = true ∧ active = false ∧ chan = .muted) ∨
  (muted = false ∧ active = true ∧ ∃ stop, chan = .active Config.beepFreq stop) ∨
  (muted = false ∧ active = false ∧ chan = .inactive)

/-- The clauses of the invariant about `MUTED`, `ACTIVE` and `CHAN` say that BEEP is in one of its three states. -/
theorem beepMode_iff (muted active : Bool) (chan : Channel) :
    BeepMode muted active chan ↔
      (active = true → muted = false) ∧ (chan = .muted ↔ muted = true) ∧
        ((∃ stop, chan.nextStopTick = some stop) ↔ active = true) ∧ chan.frequency = Config.beepFreq := by
  cases chan with
  | muted => simp [BeepMode]; grind
  | inactive => simp [BeepMode]; grind
  | active freq stop => simp [BeepMode]; grind

/-- The clauses of the invariant about the timers, BEEP and what they have staged and requested. -/
structure UnitInv (s : State) : Prop where
  mode : BeepMode s.muted s.active s.chan
  audio : audioAfter s.outputs = some s.active
  stagedDelay : (snapshotAfter s.outputs).dt.getD 0#8 = s.dt
  stagedSound : (snapshotAfter s.outputs).st.getD 0#8 = s.st
  stagedChan : (snapshotAfter s.outputs).chan.getD .inactive = s.chan

section
variable {s t : State}

theorem UnitInv.of_same (h : UnitInv s) (hmuted : t.muted = s.muted)
    (hsame : t.dt = s.dt ∧ t.st = s.st ∧ t.active = s.active ∧ t.chan = s.chan ∧ t.outputs = s.outputs) :
    UnitInv t := by
  obtain ⟨hdt, hst, hactive, hchan, houtputs⟩ := hsame
  constructor <;> simp only [hmuted, hdt, hst, hactive, hchan, houtputs]
  exacts [h.mode, h.audio, h.stagedDelay, h.stagedSound, h.stagedChan]

/-- An output that is no staging of the units and no audio request keeps the part. -/
theorem UnitInv.emit (h : UnitInv s) {o : Output} (haudio : audioStep (some s.active) o = some s.active)
    (hstage : ∀ a : Snapshot, (a.stage o).dt = a.dt ∧ (a.stage o).st = a.st ∧ (a.stage o).chan = a.chan) :
    UnitInv (s.emit o) := by
  obtain ⟨hdt, hst, hchan⟩ := hstage (snapshotAfter s.outputs)
  have hsnapshot : snapshotAfter (s.emit o).outputs = (snapshotAfter s.outputs).stage o := snapshotAfter_append _ [o]
  have hrequests : audioAfter (s.emit o).outputs = audioStep (audioAfter s.outputs) o := audioAfter_append _ [o]
  refine ⟨h.mode, by rw [hrequests, h.audio]; exact haudio, ?_, ?_, ?_⟩ <;> rw [hsnapshot]
  · rw [hdt]; exact h.stagedDelay
  · rw [hst]; exact h.stagedSound
  · rw [hchan]; exact h.stagedChan

/-- Audio requests, and then the publication of the channel state, take BEEP to the state that they say (R263, R264). -/
theorem UnitInv.of_published (h : UnitInv s) (htimers : t.dt = s.dt ∧ t.st = s.st)
    (hmode : BeepMode t.muted t.active t.chan) {requests : List Output}
    (houtputs : t.outputs = s.outputs ++ requests ++ [.channelState t.chan])
    (haudio : requests.foldl audioStep (some s.active) = some t.active)
    (hstage : ∀ a, requests.foldl Snapshot.stage a = a) : UnitInv t := by
  have hsnapshot : snapshotAfter t.outputs = { snapshotAfter s.outputs with chan := some t.chan } := by
    rw [houtputs, snapshotAfter_append, snapshotAfter_append, hstage]
    rfl
  refine ⟨hmode, ?_, ?_, ?_, ?_⟩
  · rw [houtputs, audioAfter_append, audioAfter_append, h.audio, haudio]
    rfl
  · rw [hsnapshot, htimers.1]; exact h.stagedDelay
  · rw [hsnapshot, htimers.2]; exact h.stagedSound
  · rw [hsnapshot]; rfl

/-- BEEP goes from one of its states to another with a publication, or stays as it is (R260). -/
theorem updateSoundTimer_unitInv (h : UnitInv s) (val : Byte) (c : Nat) : UnitInv (updateSoundTimer val c s) := by
  obtain ⟨hmuted, hstart, hstop, hnone⟩ := beepTransitions s val c
  obtain ⟨hm, ha, -⟩ | ⟨hm, ha, -⟩ | ⟨hm, ha, -⟩ := h.mode
  · rw [hmuted hm]
    exact h.of_published ⟨rfl, rfl⟩ (.inl ⟨hm, rfl, rfl⟩) rfl (by rw [ha]; rfl) (by rw [ha]; exact fun _ => rfl)
  · by_cases hval : val = 0
    · rw [hstop hm hval ha]
      exact h.of_published ⟨rfl, rfl⟩ (.inr (.inr ⟨hm, rfl, rfl⟩)) (List.append_assoc s.outputs [_] [_]).symm
        (by rw [ha]; rfl) fun _ => rfl
    · rw [hnone hm ⟨fun _ => ha, fun _ => hval⟩]
      exact h.of_same rfl ⟨rfl, rfl, rfl, rfl, rfl⟩
  · by_cases hval : val = 0
    · rw [hnone hm ⟨fun hne => absurd hval hne, fun hon => by simp [ha] at hon⟩]
      exact h.of_same rfl ⟨rfl, rfl, rfl, rfl, rfl⟩
    · rw [hstart hm hval ha]
      exact h.of_published ⟨rfl, rfl⟩ (.inr (.inl ⟨hm, rfl, _, rfl⟩)) (List.append_assoc s.outputs [_] [_]).symm
        (by rw [ha]; rfl) fun _ => rfl

/-- Staging the timers that have just been written, and then notifying BEEP. -/
theorem UnitInv.stageTimers (h : UnitInv s) (d snd : Byte) :
    UnitInv (State.emit { s with dt := d, st := snd } (.stagedTimers d snd)) := by
  obtain ⟨hmode, haudio, -, -, hchan⟩ := h
  constructor <;> simp_all [snapshotAfter_append, audioAfter_append, Snapshot.stage, audioStep]

theorem soundChanged_unitInv (h : UnitInv s) (val : Byte) (c : Nat) : UnitInv (soundChanged val c s) :=
  updateSoundTimer_unitInv (h.emit rfl fun _ => ⟨rfl, rfl, rfl⟩) val c

theorem loadTimers_unitInv (h : UnitInv s) (d snd : Byte) : UnitInv (loadTimers d snd s) :=
  soundChanged_unitInv (h.stageTimers d snd) snd s.cyc

theorem setDelayTimer_unitInv (h : UnitInv s) (val : Byte) : UnitInv (setDelayTimer val s) := by
  obtain ⟨hmode, haudio, -, hsound, hchan⟩ := h
  constructor <;> simp_all [setDelayTimer, snapshotAfter_append, audioAfter_append, Snapshot.stage, audioStep]

theorem setSoundTimer_unitInv (h : UnitInv s) (val : Byte) : UnitInv (setSoundTimer val s) := by
  obtain ⟨hmode, haudio, hdelay, -, hchan⟩ := h
  have hstaged : UnitInv (State.emit { s with st := val } (.stagedSound val)) := by
    constructor <;> simp_all [snapshotAfter_append, audioAfter_append, Snapshot.stage, audioStep]
  exact soundChanged_unitInv hstaged val s.cyc

theorem tick_unitInv (h : UnitInv s) : UnitInv (tick s) := by
  have hticked : UnitInv s.ticked := by
    have hpublished := (h.stageTimers (countDown s.dt) (countDown s.st)).emit (o := .published (s.cyc + 1)) rfl
      fun _ => ⟨rfl, rfl, rfl⟩
    exact hpublished.of_same rfl ⟨rfl, rfl, rfl, rfl, by simp [State.ticked]⟩
  rw [tick_eq]
  split
  · exact soundChanged_unitInv hticked _ _
  · exact hticked

theorem tickWhileDue_unitInv (fuel : Nat) (h : UnitInv s) : UnitInv (tickWhileDue fuel s) := by
  induction fuel generalizing s with
  | zero => exact h
  | succ fuel ih =>
    unfold tickWhileDue
    split
    · exact ih (tick_unitInv (h.of_same rfl ⟨rfl, rfl, rfl, rfl, rfl⟩))
    · exact h

theorem advance_unitInv {elapsed : Rat} (h : UnitInv s) (hadvance : advance elapsed s = .next t) : UnitInv t := by
  unfold advance at hadvance
  split at hadvance
  · cases hadvance
  · cases hadvance
    exact tickWhileDue_unitInv _ (h.of_same rfl ⟨rfl, rfl, rfl, rfl, rfl⟩)

theorem toggleMute_unitInv (h : UnitInv s) (flag : Bool) : UnitInv (toggleMute flag s) := by
  obtain ⟨act, chan, outs, heq, hcase⟩ := toggleMute_cases s flag
  rw [heq]
  obtain ⟨rfl, rfl, rfl, rfl⟩ | ⟨rfl, -, ha, rfl, rfl, rfl⟩ | ⟨rfl, ha, rfl, rfl, rfl⟩ |
    ⟨rfl, -, ha, rfl, rfl, rfl⟩ := hcase
  · refine h.of_published ⟨rfl, rfl⟩ (.inl ⟨rfl, rfl, rfl⟩) rfl ?_ ?_ <;> cases s.active
    exacts [rfl, rfl, fun _ => rfl, fun _ => rfl]
  · exact h.of_published ⟨rfl, rfl⟩ (.inr (.inl ⟨rfl, rfl, _, rfl⟩)) rfl (by rw [ha]; rfl) fun _ => rfl
  · have hbeeping : ∃ stop, s.chan = .active Config.beepFreq stop := by
      obtain ⟨-, hoff, -⟩ | ⟨-, -, hchan⟩ | ⟨-, hoff, -⟩ := h.mode
      · exact absurd ha (by rw [hoff]; decide)
      · exact hchan
      · exact absurd ha (by rw [hoff]; decide)
    exact h.of_published ⟨rfl, rfl⟩ (.inr (.inl ⟨rfl, rfl, hbeeping⟩)) rfl (by rw [ha]; rfl) fun _ => rfl
  · exact h.of_published ⟨rfl, rfl⟩ (.inr (.inr ⟨rfl, rfl, rfl⟩)) rfl (by rw [ha]; rfl) fun _ => rfl

theorem stageDec_unitInv (h : UnitInv s) : UnitInv s.stageDec := h.emit rfl fun _ => ⟨rfl, rfl, rfl⟩

theorem exec_unitInv {i : Instr} (h : UnitInv s) (hexec : exec i s = .next t) : UnitInv t := by
  obtain ⟨x, -, rfl⟩ | ⟨x, -, rfl⟩ | hsame := exec_units_cases hexec
  · exact setDelayTimer_unitInv h _
  · exact setSoundTimer_unitInv h _
  · exact h.of_same (exec_sameBeyondProgram hexec).muted hsame

theorem cycle_unitInv {keypad : Word} (h : UnitInv s) (hcycle : cycle keypad s = .next t) : UnitInv t := by
  obtain ⟨rfl, -⟩ | ⟨-, -, u, hu, rfl⟩ := cycle_cases hcycle
  · exact h
  · have hfetched : UnitInv (s.fetched keypad) := h.of_same rfl ⟨rfl, rfl, rfl, rfl, rfl⟩
    obtain ⟨i, -, hi⟩ | rfl := execOpcode_cases hu
    · exact stageDec_unitInv (exec_unitInv hfetched hi)
    · exact stageDec_unitInv hfetched

theorem resetEvent_unitInv (h : UnitInv s) : UnitInv (resetEvent s) := by
  have hclear : UnitInv s.clearDec := h.of_same rfl ⟨rfl, rfl, rfl, rfl, rfl⟩
  exact loadTimers_unitInv (stageDec_unitInv hclear) 0#8 0#8

theorem loadRom_unitInv (h : UnitInv s) (bytes : List Byte) : UnitInv (loadRom bytes s) := by
  unfold loadRom
  split
  · exact (resetEvent_unitInv h).emit rfl fun _ => ⟨rfl, rfl, rfl⟩
  · rw [State.storeBytes_only_mem]
    refine UnitInv.emit ?_ rfl fun _ => ⟨rfl, rfl, rfl⟩
    exact (resetEvent_unitInv h).of_same rfl ⟨rfl, rfl, rfl, rfl, rfl⟩

theorem setKeyState_unitInv (h : UnitInv s) (k : Nibble) (pressed : Bool) : UnitInv (setKeyState k pressed s) := by
  unfold setKeyState setKeyStateWith
  split
  · cases Config.keyWaitResume <;> exact h.of_same rfl ⟨rfl, rfl, rfl, rfl, rfl⟩
  · exact h

theorem UnitInv.of_frame {changed : List Field} (h : UnitInv s) (hst : UnchangedBut changed s t)
    (hkept : ∀ f ∈ [Field.muted, .dt, .st, .active, .chan, .outputs], f ∉ changed) : UnitInv t :=
  have hsame (f : Field) (hf : f ∈ [Field.muted, .dt, .st, .active, .chan, .outputs]) : SameField s t f :=
    hst f (hkept f hf)
  h.of_same (hsame .muted (by decide)) ⟨hsame .dt (by decide), hsame .st (by decide), hsame .active (by decide),
    hsame .chan (by decide), hsame .outputs (by decide)⟩

theorem buildProfile_unitInv (h : UnitInv s) : UnitInv (buildProfile s) :=
  (h.of_frame (s.withGuide_frame none) (by decide)).emit rfl fun _ => ⟨rfl, rfl, rfl⟩

theorem perform_unitInv {e : Event} (h : UnitInv s) (hperform : perform e s = .next t) : UnitInv t := by
  cases e with
  | reset => cases hperform; exact resetEvent_unitInv h
  | loadRom bytes => cases hperform; exact loadRom_unitInv h bytes
  | executeCycles keypad n =>
    obtain rfl | ⟨inputs, hcycle⟩ := executeCycles_cases hperform
    · exact h
    · have hqueue : UnitInv { s with inputs } := h.of_same rfl ⟨rfl, rfl, rfl, rfl, rfl⟩
      exact cycle_unitInv hqueue hcycle
  | setKeyState k pressed => cases hperform; exact setKeyState_unitInv h k pressed
  | advance elapsed => exact advance_unitInv h hperform
  | forceTick => cases hperform; exact tick_unitInv h
  | loadTimers d snd => cases hperform; exact loadTimers_unitInv h d snd
  | setSoundTimer val => cases hperform; exact setSoundTimer_unitInv h val
  | setDelayTimer val => cases hperform; exact setDelayTimer_unitInv h val
  | handleKeyDown code => cases hperform; exact h.of_frame (handleKeyDown_frame code s) (by decide)
  | handleKeyUp code => cases hperform; exact h.of_frame (handleKeyUp_frame code s) (by decide)
  | buildProfile => cases hperform; exact buildProfile_unitInv h
  | toggleMute flag => cases hperform; exact toggleMute_unitInv h flag
  | hostPublish => cases hperform; exact h.of_same rfl ⟨rfl, rfl, rfl, rfl, rfl⟩

end

/-! ## The remainder in `ACC` -/

section
variable {s t : State}

theorem tick_acc (s : State) : (tick s).acc = s.acc := tick_iterate_acc 1 s

theorem cycle_acc {keypad : Word} (h : cycle keypad s = .next t) : t.acc = s.acc := by
  obtain ⟨rfl, -⟩ | ⟨-, -, u, hu, rfl⟩ := cycle_cases h
  · rfl
  · exact (execOpcode_sameBeyondProgram hu).acc

theorem resetEvent_acc (s : State) : (resetEvent s).acc = s.acc := by
  rw [resetEvent, loadTimers_eq]; rfl

theorem loadRom_acc (bytes : List Byte) (s : State) : (loadRom bytes s).acc = s.acc := by
  unfold loadRom
  split
  · exact resetEvent_acc s
  · rw [State.storeBytes_only_mem]
    exact resetEvent_acc s

theorem setKeyState_acc (k : Nibble) (pressed : Bool) (s : State) : (setKeyState k pressed s).acc = s.acc := by
  unfold setKeyState setKeyStateWith
  split
  · cases Config.keyWaitResume <;> rfl
  · rfl

/-- Only `advance` writes `ACC` (R37). -/
theorem perform_acc {e : Event} (h : perform e s = .next t) (hadvance : ∀ elapsed, e ≠ .advance elapsed) :
    t.acc = s.acc := by
  cases e with
  | advance elapsed => exact absurd rfl (hadvance elapsed)
  | reset => cases h; exact resetEvent_acc s
  | loadRom bytes => cases h; exact loadRom_acc bytes s
  | executeCycles keypad n =>
    obtain rfl | ⟨inputs, hcycle⟩ := executeCycles_cases h
    · rfl
    · exact cycle_acc (s := { s with inputs }) hcycle
  | setKeyState k pressed => cases h; exact setKeyState_acc k pressed s
  | forceTick => cases h; exact tick_acc s
  | loadTimers d snd => cases h; rw [loadTimers_eq]
  | setSoundTimer val => cases h; rw [setSoundTimer_eq]
  | handleKeyDown code => cases h; exact handleKeyDown_frame code s .acc (by decide)
  | handleKeyUp code => cases h; exact handleKeyUp_frame code s .acc (by decide)
  | toggleMute flag => cases h; exact toggleMute_frame flag s .acc (by decide)
  | setDelayTimer | buildProfile | hostPublish => cases h; rfl

theorem perform_accBounds {e : Event} (h : 0 ≤ s.acc ∧ s.acc < 1 / 60) (hperform : perform e s = .next t) :
    0 ≤ t.acc ∧ t.acc < 1 / 60 := by
  by_cases hadvance : ∃ elapsed, e = .advance elapsed
  · obtain ⟨elapsed, rfl⟩ := hadvance
    exact advance_accBounds hperform h.1
  · rw [perform_acc hperform (not_exists.mp hadvance)]
    exact h

end

/-! ## The invariant -/

theorem inv_iff (s : State) : Inv s ↔ DecInv s ∧ UnitInv s ∧ (0 ≤ s.acc ∧ s.acc < 1 / 60) := by
  constructor
  · intro h
    exact ⟨⟨h.memory, h.waitLoaded, h.pcBound, h.stackBound, h.waitPc⟩,
      ⟨(beepMode_iff ..).mpr ⟨h.activeUnmuted, h.chanMuted, h.chanActive, h.chanFreq⟩, h.audio, h.stagedDelay,
        h.stagedSound, h.stagedChan⟩, h.accBounds⟩
  · rintro ⟨hdec, hunit, hacc⟩
    obtain ⟨hactive, hmuted, hchan, hfreq⟩ := (beepMode_iff ..).mp hunit.mode
    exact ⟨hdec.memory, hdec.waitLoaded, hactive, hmuted, hchan, hfreq, hacc, hdec.pcBound, hdec.stackBound,
      hdec.waitPc, hunit.audio, hunit.stagedDelay, hunit.stagedSound, hunit.stagedChan⟩

/-- Settles O59: BEEP is inactive, and nothing has been staged. -/
theorem invHoldsAtReset : Obligations.InvHoldsAtReset := by
  have hunit : UnitInv State.reset := ⟨.inr (.inr ⟨rfl, rfl, rfl⟩), rfl, rfl, rfl, rfl⟩
  exact (inv_iff _).mpr ⟨decInv_reset, hunit, le_rfl, by norm_num [State.reset]⟩

/-- Settles O60: a step performs one event, and every event keeps each of the three parts. -/
theorem stepKeepsInv : Obligations.StepKeepsInv := by
  intro s t hinv hstep
  obtain ⟨-, rfl⟩ | ⟨e, rest, -, hperform⟩ := step_cases hstep
  · exact hinv
  obtain ⟨hdec, hunit, hacc⟩ := (inv_iff s).mp hinv
  have hdec' : DecInv { s with inputs := rest } := hdec.of_same ⟨rfl, rfl, rfl, rfl, rfl⟩
  have hunit' : UnitInv { s with inputs := rest } := hunit.of_same rfl ⟨rfl, rfl, rfl, rfl, rfl⟩
  exact (inv_iff t).mpr ⟨perform_decInv hdec' hperform, perform_unitInv hunit' hperform,
    perform_accBounds (s := { s with inputs := rest }) hacc hperform⟩

end Sys2Proof.Machine
end

section
/-! PROOFS. Power-on and `reset` (R300, R302, R305). -/

namespace Sys2Proof.Machine

/-- The font lies below 0x200, so that memory at reset is 0 from there on (R28, R66). -/
theorem unlisted_eq (a : Nat) :
    unlisted a =
      if Config.fontBase.val ≤ a ∧ a < Config.fontBase.val + 80 then Config.fontData (a - Config.fontBase.val)
      else 0 := by
  have hfont := Config.fontBase.isLt
  by_cases hlow : a < 0x200
  · exact if_pos hlow
  · rw [unlisted, if_neg hlow, if_neg (by omega)]
    rfl

/-- Settles O55: each field is that of the state at power-on, and nothing of memory is listed. -/
theorem powerOnState : Obligations.PowerOnState := by
  have hmem (a : Nat) : State.reset.readByte a = unlisted a := rfl
  have hreg (r : Reg) : State.reset.reg r = 0 := Vector.getElem_replicate _
  have hstack (k : Fin 16) : State.reset.stack[k] = 0 := Vector.getElem_replicate _
  have hhl (k : Fin 16) : State.reset.hl[k] = false := Vector.getElem_replicate _
  refine ⟨fun a _ => (hmem a).trans (unlisted_eq a), hreg, rfl, rfl, hstack, rfl,
    fun px py _ _ => cellAt_replicate_zero (cellIndex px py), ?_⟩
  exact ⟨rfl, rfl, rfl, rfl, rfl, rfl, rfl, rfl, hhl, rfl, rfl, rfl, rfl, rfl, rfl, rfl⟩

theorem beepActive_zero (muted : Bool) : beepActive muted 0#8 = false := by cases muted <;> rfl

/-- What BEEP publishes when it is notified of 0 (R260). -/
theorem beepOuts_zero (muted active : Bool) (c : Nat) :
    beepOuts muted active 0#8 c = (if active then [.stopBeep] else []) ++
      (if muted then [.channelState .muted] else if active then [.channelState .inactive] else []) := by
  cases muted <;> cases active <;> rfl

theorem beepChan_zero (muted active : Bool) (chan : Channel) (c : Nat) :
    beepChan muted active chan 0#8 c = if muted then .muted else if active then .inactive else chan := by
  cases muted <;> cases active <;> rfl

/-- Settles O56: DEC is cleared and staged, and `loadTimers(0, 0)` does the rest. -/
theorem resetLeavesFreshMachine : Obligations.ResetLeavesFreshMachine := by
  intro s rest hin
  have hstep : step s = .next (resetEvent { s with inputs := rest }) := step_of_inputs hin
  rw [resetEvent, loadTimers_eq, beepOuts_zero, beepChan_zero, beepActive_zero] at hstep
  refine ⟨_, hstep, rfl, rfl, rfl, rfl, rfl, rfl, rfl, rfl, rfl, rfl, rfl, rfl, rfl, rfl, rfl, rfl, rfl, ?outputs,
    rfl, rfl, rfl, rfl, rfl, rfl⟩
  case outputs =>
    simp only [State.stageDec_outputs, List.append_assoc]
    rfl

end Sys2Proof.Machine
end
